-- ==== Sys2Proof/Word.lean ====
section
/-! DEFINITION. The words of the machine: the 32-bit word (R13, R15), the byte (R200), the 17-bit aperture offset (R13).
All values are unsigned (R14). -/

namespace Sys2Proof

/-- A register, bus or table word: 32 bits (R13, R15). -/
abbrev Word := BitVec 32

/-- A byte: a DBUF cell, an element of GF(2^8) (R102, R200). -/
abbrev Byte := BitVec 8

/-- A byte offset in the Host aperture 0x00000 to 0x1FFFF: 17 bits (R13, R100). -/
abbrev Offset := BitVec 17

end Sys2Proof
end

