-- ==== Sys2Proof/Machine/Bits.lean ====
section
/-! DEFINITION. Byte order, rotations and shifts (R15, R16): every byte of the machine is packed big-endian. -/

namespace Sys2Proof.Machine

/-- `byte_j(x) = x[31-8j : 24-8j]`, numbered from the most significant (R15). -/
def byteOf (x : Word) (j : Nat) : Byte := (x >>> (24 - 8 * j)).setWidth 8

/-- `word(b0, b1, b2, b3)`, big-endian (R15). -/
def wordOf (b0 b1 b2 b3 : Byte) : Word :=
  (b0.setWidth 32 <<< 24) ||| (b1.setWidth 32 <<< 16) ||| (b2.setWidth 32 <<< 8) ||| b3.setWidth 32

/-- `ROTR(x, n)` for 0 < n < 32 (R16). -/
def rotr (x : Word) (n : Nat) : Word := (x >>> n) ||| (x <<< (32 - n))

/-- `SHR(x, n)` (R16). -/
def shr (x : Word) (n : Nat) : Word := x >>> n

/-- `ROL8(b, n)`: rotate a byte left (R204). -/
def rol8 (b : Byte) (n : Nat) : Byte := (b <<< n) ||| (b >>> (8 - n))

/-- A 16-byte block, also an AES state: the byte in row r and column c is element r + 4c (R19). -/
abbrev Block := Vector Byte 16

/-- The bytes of four words, each most significant first (R46, R47, R313). -/
def bytesOfWords (w : Vector Word 4) : Block :=
  Vector.ofFn fun i => byteOf w[i.val / 4] (i.val % 4)

/-- The four column words `col_c` of a block (R19, R313). -/
def wordsOfBytes (b : Block) : Vector Word 4 :=
  Vector.ofFn fun c => wordOf b[4 * c.val] b[4 * c.val + 1] b[4 * c.val + 2] b[4 * c.val + 3]

/-- `^` on 16-byte strings, bytewise (R355). -/
def xorBlock (x y : Block) : Block := Vector.ofFn fun i => x[i] ^^^ y[i]

/-- `^` on byte strings, bytewise, as long as the shorter (R358 uses it on two strings of m bytes). -/
def xorBytes (x y : List Byte) : List Byte := List.zipWith (· ^^^ ·) x y

/-- The unsigned integer whose bytes are `bs`, most significant first, as a word (R103). -/
def beValue (bs : List Byte) : Word := bs.foldl (fun w b => (w <<< 8) ||| b.setWidth 32) 0#32

/-- The low `n` bytes of `v`, most significant first (R103). -/
def beBytes (n : Nat) (v : Word) : List Byte :=
  (List.range n).map fun k => (v >>> (8 * (n - 1 - k))).setWidth 8

end Sys2Proof.Machine
end

