-- ==== Sys2Proof/Machine/Gf.lean ====
section
/-! DEFINITION. GF(2^8), the S-box, its inverse, the mixing matrices and the T-table entries (R200 to R214). -/

namespace Sys2Proof.Machine

/-- Multiplication by x modulo x^8 + x^4 + x^3 + x + 1 (R201). Addition is `^^^` (R200). -/
def xtime (a : Byte) : Byte := (a <<< 1) ^^^ (if a.getLsbD 7 then 0x1B#8 else 0x00#8)

/-- The loop of R202, `n` bits of `b` still to go: `b` is shifted so that its next bit is bit 0. -/
def gmulLoop : Nat → Byte → Byte → Byte → Byte
  | 0, _, _, p => p
  | n + 1, a, b, p => gmulLoop n (xtime a) (b >>> 1) (if b.getLsbD 0 then p ^^^ a else p)

/-- The product in GF(2^8) (R202). -/
def gmul (a b : Byte) : Byte := gmulLoop 8 a b 0x00#8

/-- The multiplicative inverse, 0 mapping to 0 (R203), as a^254 = a^2 · a^4 · … · a^128: every nonzero byte has a^255 = 1.
DEDUCED (log entry 5): R203 asks for the one byte b with gmul(a, b) = 1; that this is it is the obligation
`GinvIsTheUniqueInverse`. -/
def ginv (a : Byte) : Byte :=
  let a2 := gmul a a
  let a4 := gmul a2 a2
  let a8 := gmul a4 a4
  let a16 := gmul a8 a8
  let a32 := gmul a16 a16
  let a64 := gmul a32 a32
  let a128 := gmul a64 a64
  gmul a128 (gmul a64 (gmul a32 (gmul a16 (gmul a8 (gmul a4 a2)))))

/-- The affine bit transform with constant 0x63, in R204's rotation form. -/
def affine (b : Byte) : Byte := b ^^^ rol8 b 1 ^^^ rol8 b 2 ^^^ rol8 b 3 ^^^ rol8 b 4 ^^^ 0x63#8

/-- `SBOX[x]` (R205). -/
def sbox (x : Byte) : Byte := affine (ginv x)

/-- The first of the bytes 256 - n, …, 255 that `p` holds of; 0 if there is none. -/
def findByte (p : Byte → Bool) : Nat → Byte
  | 0 => 0x00#8
  | n + 1 => if p (BitVec.ofNat 8 (255 - n)) then BitVec.ofNat 8 (255 - n) else findByte p n

/-- `INV_SBOX[y]`: the x with `SBOX[x] = y` (R206). -/
def invSbox (y : Byte) : Byte := findByte (fun x => sbox x == y) 256

/-- The first row of the MixColumns matrix (R208). -/
def mixRow : Vector Byte 4 := #v[0x02#8, 0x03#8, 0x01#8, 0x01#8]

/-- The first row of the InvMixColumns matrix (R209). -/
def invMixRow : Vector Byte 4 := #v[0x0E#8, 0x0B#8, 0x0D#8, 0x09#8]

/-- `M[j][k] = m[(k - j) mod 4]` (R208); subtraction of Fin 4 is mod 4. -/
def mixM (j k : Fin 4) : Byte := mixRow[k - j]

/-- `M'[j][k] = m'[(k - j) mod 4]` (R209). -/
def invMixM (j k : Fin 4) : Byte := invMixRow[k - j]

/-- The column `m[0][k]•b, …, m[3][k]•b` as a word (R210, R211). -/
def tableEntry (m : Fin 4 → Fin 4 → Byte) (k : Fin 4) (b : Byte) : Word :=
  wordOf (gmul (m 0 k) b) (gmul (m 1 k) b) (gmul (m 2 k) b) (gmul (m 3 k) b)

/-- The entry TEk[x]: e_j = gmul(M[j][k], SBOX[x]) (R210). -/
def te (k : Fin 4) (x : Byte) : Word := tableEntry mixM k (sbox x)

/-- The entry TDk[x]: d_j = gmul(M'[j][k], INV_SBOX[x]) (R211). -/
def td (k : Fin 4) (x : Byte) : Word := tableEntry invMixM k (invSbox x)

end Sys2Proof.Machine
end

