-- ==== Sys2Proof/Config.lean ====
section
/-! DEFINITION. What an implementation fixes (R11, R12) and the free values the spec leaves open (U1, U2, U4 of
93_implementation_defined.md). A free value is an opaque constant: nothing in Lean can evaluate it. -/

namespace Sys2Proof

/-- The implementation parameters. A machine carries them in its state and no step changes them, so a statement about
every state is a statement for every value of the parameters. -/
structure Config where
  /-- DBUF_BYTES, the size of the data buffer (R11); the default is the spec's. -/
  dbufBytes : Nat
  /-- VCA_BASE, the platform address of aperture offset 0 (R12). -/
  vcaBase : Nat
  deriving DecidableEq, Repr

namespace Config

/-- The spec's default DBUF_BYTES = 4096 (R11); VCA_BASE = 0 is a DESIGN CHOICE (log entry 2): no rule depends on it. -/
def default : Config := ⟨4096, 0⟩

/-- Free: what a DBUF byte holds at draw number `draw`, at DBUF offset `offset` (U1 and U2; log entry 3). -/
opaque freeDbufByte (draw offset : Nat) : Byte

/-- Free: what entry `i` of table RAM `t` holds while a table generation runs, at draw number `draw` (U4; log entry 4). -/
opaque freeTblWord (draw t i : Nat) : Word

/-- Free: the value of a Host program's variable that no line has given a value (log entry 10). -/
opaque freeHostWord (var : Nat) : Word

end Config

end Sys2Proof
end

