-- ==== Sys2Proof/Syntax.lean ====
section
/-! DEFINITION. The commands: one constructor per row of spec/opcode_table.json (R151). A command word has no register,
immediate or mode field (R150), so no constructor has an argument: every operand is a register or a DBUF region that the
command fixes (R155). -/

namespace Sys2Proof

/-- The eleven commands of R151. -/
inductive Instr where
  /-- TBL_GEN: regenerate the ten table RAMs (R215). -/
  | tblGen
  /-- KEY_EXPAND: expand KEY into RK (R256). -/
  | keyExpand
  /-- AES_ENC_BLK: encrypt BLK in place (R314). -/
  | aesEncBlk
  /-- AES_DEC_BLK: decrypt BLK in place (R315). -/
  | aesDecBlk
  /-- ECB_ENC (R353). -/
  | ecbEnc
  /-- ECB_DEC (R354). -/
  | ecbDec
  /-- CBC_ENC (R355). -/
  | cbcEnc
  /-- CBC_DEC (R356). -/
  | cbcDec
  /-- CTR_XFORM (R358). -/
  | ctrXform
  /-- SHA256_RAW: hash LEN bytes, the engine pads (R411). -/
  | sha256Raw
  /-- SHA256_PADDED: hash an already padded buffer (R412). -/
  | sha256Padded
  deriving DecidableEq, Repr

end Sys2Proof
end

