-- ==== Sys2Proof/WellFormed.lean ====
section
/-! DEFINITION. The checks on terms that come from outside the machine: the parameters (R11) and a command word's two fields
(R150, R151). An `Instr` has no field, so every one is well formed. -/

namespace Sys2Proof

/-- DBUF_BYTES is legal: a multiple of 64 with 64 <= DBUF_BYTES <= 65536 (R11). VCA_BASE has no constraint (R12). -/
def Config.wf (c : Config) : Bool :=
  c.dbufBytes % 64 == 0 && Nat.ble 64 c.dbufBytes && Nat.ble c.dbufBytes 65536

/-- Every command is well formed: it has no operand field to check (R150). -/
def Instr.wf (_ : Instr) : Bool := true

/-- The RSVD field, bits 31:8, is 0 (R150). -/
def rsvdClear (v : Word) : Bool := v.extractLsb' 8 24 == 0#24

/-- The OP field, bits 7:0, is one of R151's eleven opcodes. -/
def opAssigned (v : Word) : Bool :=
  [0x01#8, 0x10#8, 0x20#8, 0x21#8, 0x30#8, 0x31#8, 0x32#8, 0x33#8, 0x34#8, 0x40#8, 0x41#8].contains (v.extractLsb' 0 8)

/-- A command word is legal exactly when both checks pass (R150, R151, R153). -/
def commandWordWf (v : Word) : Bool := rsvdClear v && opAssigned v

end Sys2Proof
end

