-- ==== Sys2Proof/Decode.lean ====
section
/-! DEFINITION. The decoder, one table lookup total over all 2^32 words (R151, R154), the encoder, and the host's view of a
table row. -/

namespace Sys2Proof

/-- Why a word is no command (R153). -/
inductive DecodeError where
  /-- RSVD, bits 31:8, is not 0. -/
  | rsvdNotZero
  /-- RSVD is 0 and OP, bits 7:0, is in no row of R151. -/
  | opUnassigned
  deriving DecidableEq, Repr

/-- The OP column of R151's opcode map. -/
def decodeOp (op : Byte) : Option Instr :=
  if op = 0x01#8 then some .tblGen
  else if op = 0x10#8 then some .keyExpand
  else if op = 0x20#8 then some .aesEncBlk
  else if op = 0x21#8 then some .aesDecBlk
  else if op = 0x30#8 then some .ecbEnc
  else if op = 0x31#8 then some .ecbDec
  else if op = 0x32#8 then some .cbcEnc
  else if op = 0x33#8 then some .cbcDec
  else if op = 0x34#8 then some .ctrXform
  else if op = 0x40#8 then some .sha256Raw
  else if op = 0x41#8 then some .sha256Padded
  else none

/-- Decoding a command word: RSVD must be 0, OP must be assigned (R150, R151, R153). -/
def decode (v : Word) : Except DecodeError Instr :=
  if v.extractLsb' 8 24 = 0#24 then
    match decodeOp (v.extractLsb' 0 8) with
    | some i => .ok i
    | none => .error .opUnassigned
  else .error .rsvdNotZero

/-- The CMDW column of R151's opcode map. -/
def encode : Instr → Word
  | .tblGen => 0x00000001#32
  | .keyExpand => 0x00000010#32
  | .aesEncBlk => 0x00000020#32
  | .aesDecBlk => 0x00000021#32
  | .ecbEnc => 0x00000030#32
  | .ecbDec => 0x00000031#32
  | .cbcEnc => 0x00000032#32
  | .cbcDec => 0x00000033#32
  | .ctrXform => 0x00000034#32
  | .sha256Raw => 0x00000040#32
  | .sha256Padded => 0x00000041#32

/-- The word whose low `nbits` bits are those of `w`, every other bit 0. A command is one 32-bit word, written to CMD by one
bus access (R150), so no byte order enters. -/
def tableWord (nbits w : Nat) : Word := BitVec.ofNat 32 (w % 2 ^ nbits)

/-- What the decoder reads from an instruction whose bits are `w`, numbered as the opcode table numbers them. -/
def decodeTableWord (nbits w : Nat) : Option Instr :=
  match decode (tableWord nbits w) with
  | .ok i => some i
  | .error _ => none

end Sys2Proof
end

