-- ==== Sys2Proof/Machine/State.lean ====
section
/-! DEFINITION. The architectural state of VCA-CORE (R30), plain data: the registers, the round-key file, the table RAMs,
DBUF, the Sequencer's phase, the Host's side of the bus, and the state right after a hardware reset (R54). -/

namespace Sys2Proof.Machine

/-- A sparse byte memory: the bytes that something has written, at strictly rising addresses. An unlisted address has no
entry; what the machine reads there is a free byte, U1 (`State.dbufByte`, log entry 3). -/
abbrev Memory := List Host.Cell

/-- The outcome codes of STATUS.ERR (R500). Codes 7 to 15 are never produced, and this type has no name for them. -/
inductive ErrCode where
  | eNone | eOpcode | eNoKey | eLen | eAlign | eRange | eOverlap
  deriving DecidableEq, Repr

/-- The Sequencer's phase (R51): IDLE, GEN (the reset-time table generation, R602), or EXEC(v) for the accepted command v,
TBL_GEN among them (R162; log entry 6). -/
inductive Phase where
  | idle
  | gen
  | exec (i : Instr)
  deriving DecidableEq, Repr

/-- The ten table RAMs (R52): TBL[0], TBL[1] (SBOX, INV_SBOX) hold bytes, TBL[2..9] (TE0..TE3, TD0..TD3) hold words. -/
structure Tables where
  bytes : Vector (Vector Byte 256) 2
  words : Vector (Vector Word 256) 8
  deriving DecidableEq, Repr

/-- Unspecified RAM contents (R54, U4): every entry is a free value of draw `draw`. -/
def Tables.unspecified (draw : Nat) : Tables where
  bytes := Vector.ofFn fun t => Vector.ofFn fun i => (Config.freeTblWord draw t.val i.val).setWidth 8
  words := Vector.ofFn fun t => Vector.ofFn fun i => Config.freeTblWord draw (2 + t.val) i.val

/-- The size of a bus access: 1, 2 or 4 bytes (R101). -/
inductive Size where
  | byte | half | word
  deriving DecidableEq, Repr

/-- A Host bus transaction (R101). A write of 1 or 2 bytes carries its data in the low 8 or 16 bits. -/
inductive Transaction where
  | read (off : Offset) (size : Size)
  | write (off : Offset) (size : Size) (data : Word)
  deriving DecidableEq, Repr

/-- The response of a bus transaction (R101): OK with a value (zero-extended to 32 bits), OK, or BUS_ERROR. -/
inductive Response where
  | okRead (v : Word)
  | okWrite
  | busError
  deriving DecidableEq, Repr

/-- What one Sequencer step inside a busy interval does (R39, R163, R164): something the Host cannot see, finish one more
data block (PROGRESS), or end the interval. -/
inductive SeqStep where
  | work | block | finish
  deriving DecidableEq, Repr

/-- The value of a Host write: a number or a Host variable's current value (R157). -/
inductive HostValue where
  | lit (v : Word)
  | var (x : Nat)
  deriving DecidableEq, Repr

/-- A line of a Host program (R157). A label is the number of the line it stands before, a Host variable is a number. -/
inductive HostLine where
  /-- W32, W16, W8 -/
  | write (size : Size) (off : Offset) (val : HostValue)
  /-- R32 off -> x -/
  | read (off : Offset) (x : Nat)
  /-- R32 off == val -/
  | check (off : Offset) (val : Word)
  /-- POLL off, mask, val -/
  | poll (off : Offset) (mask val : Word)
  /-- BNE x, val, label -/
  | bne (x : Nat) (val : Word) (label : Nat)
  /-- BEQ x, val, label -/
  | beq (x : Nat) (val : Word) (label : Nat)
  /-- SET x, val -/
  | set (x : Nat) (val : Word)
  /-- ADD x, val -/
  | add (x : Nat) (val : Word)
  | halt
  deriving DecidableEq, Repr

/-- The Host as an agent that runs a Host program (R157): its lines, the line it is at, the variables that hold a value, and
whether an `R32 off == val` has failed. -/
structure HostAgent where
  program : List HostLine
  line : Nat
  vars : List (Nat × Word)
  checkFailed : Bool
  deriving DecidableEq, Repr

/-- Whose turn it is (R5, R507): a bus transaction of an arbitrary Host, the next line of the Host's program, a Sequencer
step, or a hardware reset (R600). -/
inductive Event where
  | bus (t : Transaction)
  | hostLine
  | sequencer (a : SeqStep)
  | hardReset
  deriving DecidableEq, Repr

/-- The state (R30). ID and VERSION are constants (R37), CTRL reads 0 (R34), TBL_DATA (R50), STATUS.BUSY (R51) and STATUS.IRQ
(R505) are views of other state; none of these needs a field. -/
structure State where
  /-- The parameters DBUF_BYTES and VCA_BASE (R11, R12); no step changes them. -/
  config : Config
  /-- What a read of CMD returns (R35). -/
  lastCmd : Word
  /-- STATUS.DONE (R36). -/
  done : Bool
  /-- STATUS.TBL_VALID (R36). -/
  tblValid : Bool
  /-- STATUS.KS_VALID (R36). -/
  ksValid : Bool
  /-- STATUS.CMD_OVERRUN (R36). -/
  cmdOverrun : Bool
  /-- STATUS.WR_IGNORED (R36). -/
  wrIgnored : Bool
  /-- STATUS.ERR (R36, R500). -/
  err : ErrCode
  /-- IRQ_EN.DONE_IE (R38). -/
  doneIE : Bool
  /-- IRQ_EN.OVR_IE (R38). -/
  ovrIE : Bool
  /-- PROGRESS (R39). -/
  progress : Word
  /-- SRC (R40). -/
  src : Word
  /-- DST (R41). -/
  dst : Word
  /-- LEN (R42). -/
  len : Word
  /-- KEY[0..7] (R43). -/
  key : Vector Word 8
  /-- IV[0..3] (R46). -/
  iv : Vector Word 4
  /-- BLK[0..3] (R47). -/
  blk : Vector Word 4
  /-- DIGEST[0..7] (R48). -/
  digest : Vector Word 8
  /-- RK[0..59], the round-key file (R45). -/
  rk : Vector Word 60
  /-- TBL_ADDR.SEL (R49). -/
  tblSel : BitVec 4
  /-- TBL_ADDR.IDX (R49). -/
  tblIdx : BitVec 8
  /-- TBL[0..9][0..255], the table RAMs (R52). -/
  tbl : Tables
  /-- DBUF[0..DBUF_BYTES-1] (R102): the bytes written since the last hardware reset. -/
  dbuf : Memory
  /-- The Sequencer's phase (R51). -/
  phase : Phase
  /-- The model's own: how many times free values have been drawn (log entry 3). -/
  draws : Nat
  /-- The model's own: the draw that the DBUF bytes nothing has written show (U1; log entry 3). -/
  dbufDraw : Nat
  /-- The model's own: the response of the last bus transaction, none before the first (R101). -/
  response : Option Response
  /-- The Host agent and its program (R157). -/
  host : HostAgent
  /-- The model's own: the turns still to come, oldest first (R5, R507; log entry 7). -/
  inputs : List Event
  deriving DecidableEq, Repr

/-- Why the machine would stop: it never does. A BUS_ERROR is a bus response with no other effect (R503, `Response.busError`),
a rejected command is a completion record (R167), and there is no trap (R508). So this type has no constructor. -/
inductive Fault where
  deriving DecidableEq, Repr

/-- Why an instruction would have no meaning. -/
inductive Refusal where
  /-- An opcode-table row without a meaning. No arm raises it: every row has its meaning. Safe. -/
  | notModelled (mnemonic : String)
  deriving DecidableEq, Repr

/-- Right after a hardware reset (R54, R600, R602, R603): the phase is GEN, every register is 0, the tables and DBUF hold free
values. The parameters are the spec's defaults. The turns to come, the response and the Host's program are empty. -/
def State.reset : State where
  config := Config.default
  lastCmd := 0#32
  done := false
  tblValid := false
  ksValid := false
  cmdOverrun := false
  wrIgnored := false
  err := .eNone
  doneIE := false
  ovrIE := false
  progress := 0#32
  src := 0#32
  dst := 0#32
  len := 0#32
  key := Vector.replicate 8 0#32
  iv := Vector.replicate 4 0#32
  blk := Vector.replicate 4 0#32
  digest := Vector.replicate 8 0#32
  rk := Vector.replicate 60 0#32
  tblSel := 0#4
  tblIdx := 0#8
  tbl := Tables.unspecified 0
  dbuf := []
  phase := .gen
  draws := 1
  dbufDraw := 0
  response := none
  host := ⟨[], 0, [], false⟩
  inputs := []

end Sys2Proof.Machine
end

