-- ==== Sys2Proof/Machine/Flags.lean ====
section
/-! DEFINITION. The status flags as the Host reads and writes them: STATUS (R36), the interrupt level (R505), IRQ_EN (R38), the
error codes (R500). -/

namespace Sys2Proof.Machine

/-- The 4-bit code of an outcome (R500). -/
def ErrCode.code : ErrCode → BitVec 4
  | .eNone => 0#4
  | .eOpcode => 1#4
  | .eNoKey => 2#4
  | .eLen => 3#4
  | .eAlign => 4#4
  | .eRange => 5#4
  | .eOverlap => 6#4

/-- STATUS.BUSY: 1 exactly when the phase is not IDLE (R51). -/
def State.busy (s : State) : Bool :=
  match s.phase with
  | .idle => false
  | .gen => true
  | .exec _ => true

/-- The level of the interrupt output, which STATUS.IRQ always equals (R505). -/
def State.irq (s : State) : Bool :=
  (s.done && s.doneIE) || ((s.cmdOverrun || s.wrIgnored) && s.ovrIE)

/-- A word whose bit `n` is `b` and whose other bits are 0. -/
def bitAt (b : Bool) (n : Nat) : Word := if b then 1#32 <<< n else 0#32

/-- STATUS as the Host reads it (R36); bits 7 and 31:12 are reserved and read 0. -/
def statusWord (s : State) : Word :=
  bitAt s.busy 0 ||| bitAt s.done 1 ||| bitAt s.tblValid 2 ||| bitAt s.ksValid 3 ||| bitAt s.cmdOverrun 4
    ||| bitAt s.wrIgnored 5 ||| bitAt s.irq 6 ||| (s.err.code.setWidth 32 <<< 8)

/-- A Host write of `v` to STATUS: DONE, CMD_OVERRUN and WR_IGNORED are write-1-to-clear (R33, R36). -/
def writeStatus (v : Word) (s : State) : State :=
  { s with
    done := s.done && !v.getLsbD 1
    cmdOverrun := s.cmdOverrun && !v.getLsbD 4
    wrIgnored := s.wrIgnored && !v.getLsbD 5 }

/-- IRQ_EN as the Host reads it (R38). -/
def irqEnWord (s : State) : Word := bitAt s.doneIE 0 ||| bitAt s.ovrIE 1

/-- A Host write of `v` to IRQ_EN; bits 31:2 are reserved (R38). -/
def writeIrqEn (v : Word) (s : State) : State :=
  { s with doneIE := v.getLsbD 0, ovrIE := v.getLsbD 1 }

/-- TBL_ADDR as the Host reads it: SEL in bits 11:8, IDX in bits 7:0 (R49). -/
def tblAddrWord (s : State) : Word := (s.tblSel.setWidth 32 <<< 8) ||| s.tblIdx.setWidth 32

end Sys2Proof.Machine
end

