-- ==== Sys2Proof/Machine/Operands.lean ====
section
/-! DEFINITION. What a command takes its operands from (R155, R156), the checks made on them when it is issued (R166, R168 to
R173) and its block count (R39). All arithmetic on SRC, DST and LEN is in unbounded integers (R156). -/

namespace Sys2Proof.Machine

/-- The two DBUF offsets a command may have (R155). -/
inductive Operand where
  | src | dst
  deriving DecidableEq, Repr

/-- The DBUF offset an operand register holds, unscaled (R156). -/
def Operand.offset : Operand → State → Nat
  | .src, s => s.src.toNat
  | .dst, s => s.dst.toNat

/-- The columns of R168. -/
inductive Check where
  /-- KS_VALID must be 1 (R169). -/
  | keyValid
  /-- LEN must be a multiple of `unit` (R172). -/
  | lenMultiple (unit : Nat)
  /-- The offset must be a multiple of 4 (R171). -/
  | aligned (x : Operand)
  /-- Offset + LEN must not exceed DBUF_BYTES (R170). -/
  | inRange (x : Operand)
  /-- The two regions must coincide or be disjoint (R173). -/
  | noOverlap
  deriving DecidableEq, Repr

/-- Whether a check fails in a state (R169 to R173). -/
def Check.fails : Check → State → Bool
  | .keyValid, s => !s.ksValid
  | .lenMultiple unit, s => s.len.toNat % unit != 0
  | .aligned x, s => x.offset s % 4 != 0
  | .inRange x, s => decide (s.config.dbufBytes < x.offset s + s.len.toNat)
  | .noOverlap, s =>
    decide (0 < s.len.toNat ∧ s.src ≠ s.dst ∧ s.src.toNat < s.dst.toNat + s.len.toNat
      ∧ s.dst.toNat < s.src.toNat + s.len.toNat)

/-- The error code a failing check reports (R166). -/
def Check.code : Check → ErrCode
  | .keyValid => .eNoKey
  | .lenMultiple _ => .eLen
  | .aligned _ => .eAlign
  | .inRange _ => .eRange
  | .noOverlap => .eOverlap

/-- The checks of an ECB or CBC command, in R166's order (R168). -/
def blockModeChecks : List Check :=
  [.keyValid, .lenMultiple 16, .aligned .src, .aligned .dst, .inRange .src, .inRange .dst, .noOverlap]

/-- The checks R168 lists for each opcode, in R166's order. -/
def checksOf : Instr → List Check
  | .tblGen => []
  | .keyExpand => []
  | .aesEncBlk => [.keyValid]
  | .aesDecBlk => [.keyValid]
  | .ecbEnc => blockModeChecks
  | .ecbDec => blockModeChecks
  | .cbcEnc => blockModeChecks
  | .cbcDec => blockModeChecks
  | .ctrXform => [.keyValid, .aligned .src, .aligned .dst, .inRange .src, .inRange .dst, .noOverlap]
  | .sha256Raw => [.aligned .src, .inRange .src]
  | .sha256Padded => [.lenMultiple 64, .aligned .src, .inRange .src]

/-- The error code of the first check of the list that fails (R166, R507). -/
def firstFailure : List Check → State → Option ErrCode
  | [], _ => none
  | c :: cs, s => if c.fails s then some c.code else firstFailure cs s

/-- The error a command is rejected with in a state, none if every check passes (R166). -/
def rejection (i : Instr) (s : State) : Option ErrCode := firstFailure (checksOf i) s

/-- The number of 64-byte blocks of `Pad(M)` for a message of `len` bytes (R405). -/
def paddedBlocks (len : Nat) : Nat := (len + 8) / 64 + 1

/-- The block count PROGRESS has at completion (R39 and each command's rule). -/
def blockCount : Instr → State → Nat
  | .tblGen, _ => 0
  | .keyExpand, _ => 0
  | .aesEncBlk, _ => 1
  | .aesDecBlk, _ => 1
  | .ecbEnc, s => s.len.toNat / 16
  | .ecbDec, s => s.len.toNat / 16
  | .cbcEnc, s => s.len.toNat / 16
  | .cbcDec, s => s.len.toNat / 16
  | .ctrXform, s => (s.len.toNat + 15) / 16
  | .sha256Raw, s => paddedBlocks s.len.toNat
  | .sha256Padded, s => s.len.toNat / 64

/-- Whether a command writes DBUF[DST, DST + LEN) (R155), the region an abort leaves unspecified (R604). -/
def writesDbuf : Instr → Bool
  | .tblGen => false
  | .keyExpand => false
  | .aesEncBlk => false
  | .aesDecBlk => false
  | .ecbEnc => true
  | .ecbDec => true
  | .cbcEnc => true
  | .cbcDec => true
  | .ctrXform => true
  | .sha256Raw => false
  | .sha256Padded => false

end Sys2Proof.Machine
end

