-- ==== Sys2Proof/Machine/Ops.lean ====
section
/-! DEFINITION. The named operations every command and every bus access is made of: DBUF access (R18, R103), the command
protocol (R160 to R167), and the two resets (R600 to R605). A completion record (DONE, ERR, LASTCMD) is this machine's
counterpart of an exception's entry, and the Host's write-1-to-clear of STATUS that of the return (R508, R509):
`reject`, `complete` and `Flags.writeStatus`. -/

namespace Sys2Proof.Machine

/-- The byte listed at an address, none if the address is unlisted. -/
def Memory.read : Memory → Nat → Option Byte
  | [], _ => none
  | (a, b) :: m, x => if a = x then some b else Memory.read m x

/-- Writing one byte keeps the addresses strictly rising. -/
def Memory.write : Memory → Nat → Byte → Memory
  | [], x, v => [(x, v)]
  | (a, b) :: m, x, v =>
    if x < a then (x, v) :: (a, b) :: m
    else if x = a then (a, v) :: m
    else (a, b) :: Memory.write m x v

/-- Writing a byte string from address `x` up. -/
def Memory.writeBytes : Memory → Nat → List Byte → Memory
  | m, _, [] => m
  | m, x, v :: vs => Memory.writeBytes (Memory.write m x v) (x + 1) vs

/-- The canonical form: strictly rising addresses. An unlisted address reads as no entry (`none`), which no entry equals. -/
abbrev Memory.wf (m : Memory) : Prop := m.Pairwise (fun p q => p.1 < q.1)

/-- DBUF[a]: the byte written there, or the free byte of the last hardware reset where nothing has been written (R603, U1). -/
def State.dbufByte (s : State) (a : Nat) : Byte :=
  (Memory.read s.dbuf a).getD (Config.freeDbufByte s.dbufDraw a)

/-- `MemRead(a, n)` (R18). -/
def State.memRead (s : State) (a n : Nat) : List Byte := (List.range n).map fun k => s.dbufByte (a + k)

/-- `MemWrite(a, n, bs)`, n the length of `bs` (R18). -/
def State.memWrite (s : State) (a : Nat) (bs : List Byte) : State :=
  { s with dbuf := Memory.writeBytes s.dbuf a bs }

/-- `MemRead(a, 16)` as a block (R350). -/
def State.readBlock (s : State) (a : Nat) : Block := Vector.ofFn fun i => s.dbufByte (a + i.val)

/-- `MemWrite(a, 16, b)` (R350). -/
def State.writeBlock (s : State) (a : Nat) (b : Block) : State := s.memWrite a b.toList

/-- A CMD write while BUSY = 1 (R165). -/
def overrun (s : State) : State := { s with cmdOverrun := true }

/-- A Host write that is dropped because BUSY = 1 (R109). -/
def dropWrite (s : State) : State := { s with wrIgnored := true }

/-- Rejection of the command word `v` with code `e` (R161, R167). -/
def reject (v : Word) (e : ErrCode) (s : State) : State :=
  { s with lastCmd := v, done := true, err := e, progress := 0#32 }

/-- Acceptance of command `i`: a fresh record, and the busy interval starts (R161, R162). -/
def accept (i : Instr) (s : State) : State :=
  { s with lastCmd := encode i, done := false, err := .eNone, progress := 0#32, phase := .exec i }

/-- Completion after `n` blocks: the record, and the busy interval ends (R162). -/
def complete (n : Nat) (s : State) : State :=
  { s with progress := BitVec.ofNat 32 n, err := .eNone, done := true, phase := .idle }

/-- The command `i` at a state: issued when the phase is IDLE (R160: rejected by its first failing check, or accepted),
carried out and completed when it is the running command (R162: `effect` is what it writes, computed from the state at
acceptance, which nothing has changed since, R163), an overrun in any other busy phase (R165). `start` is what it writes at
acceptance. -/
def command (i : Instr) (start effect : State → State) (s : State) : Host.Outcome State Fault Refusal :=
  match s.phase with
  | .idle =>
    match rejection i s with
    | some e => .next (reject (encode i) e s)
    | none => .next (accept i (start s))
  | .exec j => if j = i then .next (complete (blockCount i s) (effect s)) else .next (overrun s)
  | .gen => .next (overrun s)

/-- What a command writes at acceptance beyond the record: nothing, but for TBL_GEN. -/
def noStart (s : State) : State := s

/-- The DBUF contents an abort leaves (R604): of a running ECB, CBC or CTR command every byte of [DST, DST + LEN) is a fresh
free value (U2), every other byte keeps its value. -/
def abortedDbuf (s : State) : Memory :=
  match s.phase with
  | .idle => s.dbuf
  | .gen => s.dbuf
  | .exec i =>
    if writesDbuf i then
      Memory.writeBytes s.dbuf s.dst.toNat
        ((List.range s.len.toNat).map fun k => Config.freeDbufByte s.draws (s.dst.toNat + k))
    else s.dbuf

/-- Soft reset (R600, R603, R604): every register to its reset value and the reset-time table generation starts; DBUF is kept,
but for an aborted command's destination. -/
def softReset (s : State) : State :=
  { State.reset with
    config := s.config
    tbl := Tables.unspecified s.draws
    dbuf := abortedDbuf s
    draws := s.draws + 1
    dbufDraw := s.dbufDraw
    response := s.response
    host := s.host
    inputs := s.inputs }

/-- Hardware reset (R600, R603, R605): as a soft reset, and every byte of DBUF is a fresh free value. -/
def hardReset (s : State) : State :=
  { State.reset with
    config := s.config
    tbl := Tables.unspecified s.draws
    draws := s.draws + 1
    dbufDraw := s.draws
    response := s.response
    host := s.host
    inputs := s.inputs }

end Sys2Proof.Machine
end

