-- ==== Sys2Proof/Machine/KeySchedule.lean ====
section
/-! DEFINITION. The AES-256 key schedule and KEY_EXPAND (R250 to R258). -/

namespace Sys2Proof.Machine

/-- `RotWord(x) = ROTR(x, 24)` (R251). -/
def rotWord (x : Word) : Word := rotr x 24

/-- `SubWord(x)` (R252). -/
def subWord (x : Word) : Word :=
  wordOf (sbox (byteOf x 0)) (sbox (byteOf x 1)) (sbox (byteOf x 2)) (sbox (byteOf x 3))

/-- `Rcon[j + 1]` = x^j (R253). -/
def rconPow : Nat → Byte
  | 0 => 0x01#8
  | j + 1 => xtime (rconPow j)

/-- `Rcon[j]` for j >= 1, as the word `Rcon[j] << 24` (R253). -/
def rconWord (j : Nat) : Word := (rconPow (j - 1)).setWidth 32 <<< 24

/-- The `temp` of R254 for index i, from W[i-1]. -/
def scheduleTemp (i : Nat) (prev : Word) : Word :=
  if i % 8 = 0 then subWord (rotWord prev) ^^^ rconWord (i / 8)
  else if i % 8 = 4 then subWord prev
  else prev

/-- The first `n + 8` words of the expansion: the loop of R254, W[i] = W[i-8] ^ temp (90_conflicts.md C1). -/
def scheduleWords (key : Vector Word 8) : Nat → List Word
  | 0 => key.toList
  | n + 1 =>
    let w := scheduleWords key n
    w ++ [w.getD n 0#32 ^^^ scheduleTemp (n + 8) (w.getD (n + 7) 0#32)]

/-- `Expand(W[0..7])` (R254). -/
def expandKey (key : Vector Word 8) : Vector Word 60 :=
  let w := scheduleWords key 52
  Vector.ofFn fun i => w.getD i.val 0#32

/-- What KEY_EXPAND writes: RK and KS_VALID (R256). -/
def keyExpandEffect (s : State) : State := { s with rk := expandKey s.key, ksValid := true }

/-- KEY_EXPAND (R256). -/
def execKeyExpand (s : State) : Host.Outcome State Fault Refusal := command .keyExpand noStart keyExpandEffect s

end Sys2Proof.Machine
end

