-- ==== Sys2Proof/Machine/TableGen.lean ====
section
/-! DEFINITION. The Galois-field and S-box generator: the contents of the ten table RAMs, TBL_GEN (R215) and the reset-time
table generation (R602), and the table readout (R50). -/

namespace Sys2Proof.Machine

/-- The values R215 writes to TBL[0..9]. -/
def Tables.generated : Tables where
  bytes := #v[Vector.ofFn fun x => sbox (BitVec.ofNat 8 x.val), Vector.ofFn fun x => invSbox (BitVec.ofNat 8 x.val)]
  words := Vector.ofFn fun t =>
    if h : t.val < 4 then Vector.ofFn fun x => te ⟨t.val, h⟩ (BitVec.ofNat 8 x.val)
    else Vector.ofFn fun x => td ⟨t.val - 4, by omega⟩ (BitVec.ofNat 8 x.val)

/-- TBL[sel][idx] as TBL_DATA returns it: SEL 0, 1 zero-extended bytes, SEL 2 to 9 words, SEL 10 to 15 read 0 (R50). -/
def Tables.read (t : Tables) (sel : BitVec 4) (idx : BitVec 8) : Word :=
  if h : sel.toNat < 2 then ((t.bytes[sel.toNat])[idx.toNat]).setWidth 32
  else if h' : sel.toNat < 10 then (t.words[sel.toNat - 2]'(by omega))[idx.toNat]
  else 0#32

/-- What TBL_GEN does at acceptance: TBL_VALID <- 0 (R215); until it completes the RAM contents are unspecified (U4). -/
def startTblGen (s : State) : State :=
  { s with tblValid := false, tbl := Tables.unspecified s.draws, draws := s.draws + 1 }

/-- What a table generation writes when it ends (R215, R602). -/
def fillTables (s : State) : State := { s with tblValid := true, tbl := Tables.generated }

/-- TBL_GEN (R215). -/
def execTblGen (s : State) : Host.Outcome State Fault Refusal := command .tblGen startTblGen fillTables s

/-- The end of the reset-time table generation (R602): no DONE, no change of ERR or PROGRESS. -/
def finishGeneration (s : State) : State := { fillTables s with phase := .idle }

end Sys2Proof.Machine
end

