-- ==== Sys2Proof/Machine/RoundEngine.lean ====
section
/-! DEFINITION. The AES round engine: the round steps, Cipher and InvCipher (R300 to R307), the table-driven form (R309 to
R312), AES_ENC_BLK and AES_DEC_BLK (R314, R315). -/

namespace Sys2Proof.Machine

/-- The round-key file (R255). -/
abbrev RoundKeys := Vector Word 60

/-- `SubBytes` (R300). -/
def subBytes (s : Block) : Block := s.map sbox

/-- `InvSubBytes` (R300). -/
def invSubBytes (s : Block) : Block := s.map invSbox

/-- `ShiftRows`: s'[r + 4c] = s[r + 4((c + r) mod 4)] (R301). -/
def shiftRows (s : Block) : Block :=
  Vector.ofFn fun i => s[i.val % 4 + 4 * ((i.val / 4 + i.val % 4) % 4)]

/-- `InvShiftRows`: s'[r + 4c] = s[r + 4((c - r) mod 4)] (R302). -/
def invShiftRows (s : Block) : Block :=
  Vector.ofFn fun i => s[i.val % 4 + 4 * ((i.val / 4 + 4 - i.val % 4) % 4)]

/-- `AddRoundKey(s, r)`: s'[j + 4c] = s[j + 4c] ^ byte_j(RK[4r + c]) (R303). -/
def addRoundKey (rk : RoundKeys) (r : Fin 15) (s : Block) : Block :=
  Vector.ofFn fun i => s[i] ^^^ byteOf (rk[4 * r.val + i.val / 4]) (i.val % 4)

/-- The product of a 4 x 4 matrix over GF(2^8) and a column (R304, R305). -/
def mulColumn (m : Fin 4 → Fin 4 → Byte) (a0 a1 a2 a3 : Byte) (j : Fin 4) : Byte :=
  gmul (m j 0) a0 ^^^ gmul (m j 1) a1 ^^^ gmul (m j 2) a2 ^^^ gmul (m j 3) a3

/-- Each column of a state multiplied by a matrix (R304, R305). -/
def mulColumns (m : Fin 4 → Fin 4 → Byte) (s : Block) : Block :=
  Vector.ofFn fun i =>
    mulColumn m (s[4 * (i.val / 4)]) (s[4 * (i.val / 4) + 1]) (s[4 * (i.val / 4) + 2]) (s[4 * (i.val / 4) + 3])
      ⟨i.val % 4, by omega⟩

/-- `MixColumns` (R304). -/
def mixColumns (s : Block) : Block := mulColumns mixM s

/-- `InvMixColumns` (R305). -/
def invMixColumns (s : Block) : Block := mulColumns invMixM s

/-- Rounds 1 to 13 (R306). -/
def middleRounds : List (Fin 15) := [1, 2, 3, 4, 5, 6, 7, 8, 9, 10, 11, 12, 13]

/-- `AddRoundKey(MixColumns(ShiftRows(SubBytes(s))), r)`, a full round (R306). -/
def fullRound (rk : RoundKeys) (s : Block) (r : Fin 15) : Block :=
  addRoundKey rk r (mixColumns (shiftRows (subBytes s)))

/-- `InvMixColumns(AddRoundKey(InvSubBytes(InvShiftRows(s)), r))`, a full inverse round (R307). -/
def invFullRound (rk : RoundKeys) (s : Block) (r : Fin 15) : Block :=
  invMixColumns (addRoundKey rk r (invSubBytes (invShiftRows s)))

/-- `Cipher(b)` with the round keys `rk` (R306). -/
def cipher (rk : RoundKeys) (b : Block) : Block :=
  addRoundKey rk 14 (shiftRows (subBytes (middleRounds.foldl (fullRound rk) (addRoundKey rk 0 b))))

/-- `InvCipher(b)` with the round keys `rk` (R307). -/
def invCipher (rk : RoundKeys) (b : Block) : Block :=
  addRoundKey rk 0 (invSubBytes (invShiftRows (middleRounds.reverse.foldl (invFullRound rk) (addRoundKey rk 14 b))))

/-- SBOX[x] of the table RAMs (R52). -/
def Tables.sbox (t : Tables) (x : Byte) : Byte := t.bytes[0][x.toNat]

/-- INV_SBOX[x] of the table RAMs (R52). -/
def Tables.invSbox (t : Tables) (x : Byte) : Byte := t.bytes[1][x.toNat]

/-- TEk[x] of the table RAMs (R52). -/
def Tables.te (t : Tables) (k : Fin 4) (x : Byte) : Word := (t.words[k.val])[x.toNat]

/-- TDk[x] of the table RAMs (R52). -/
def Tables.td (t : Tables) (k : Fin 4) (x : Byte) : Word := (t.words[4 + k.val])[x.toNat]

/-- A full round in table form, on four column words (R309). -/
def tableRound (t : Tables) (rk : RoundKeys) (s : Vector Word 4) (r : Fin 15) : Vector Word 4 :=
  Vector.ofFn fun c =>
    t.te 0 (byteOf s[c] 0) ^^^ t.te 1 (byteOf s[c + 1] 1) ^^^ t.te 2 (byteOf s[c + 2] 2) ^^^ t.te 3 (byteOf s[c + 3] 3)
      ^^^ rk[4 * r.val + c.val]

/-- `Cipher` in table form (R309, R310); indices of columns are mod 4. -/
def tableCipher (t : Tables) (rk : RoundKeys) (b : Block) : Block :=
  let s0 : Vector Word 4 := Vector.ofFn fun c => (wordsOfBytes b)[c] ^^^ rk[c.val]
  let s := middleRounds.foldl (tableRound t rk) s0
  bytesOfWords (Vector.ofFn fun c =>
    wordOf (t.sbox (byteOf s[c] 0)) (t.sbox (byteOf s[c + 1] 1)) (t.sbox (byteOf s[c + 2] 2)) (t.sbox (byteOf s[c + 3] 3))
      ^^^ rk[56 + c.val])

/-- `InvMixWord(x)` (R305). -/
def invMixWord (x : Word) : Word :=
  let d := mulColumn invMixM (byteOf x 0) (byteOf x 1) (byteOf x 2) (byteOf x 3)
  wordOf (d 0) (d 1) (d 2) (d 3)

/-- The decryption round keys of the table form, DK (R311). -/
def decryptKeys (rk : RoundKeys) : RoundKeys :=
  Vector.ofFn fun i => if 4 ≤ i.val ∧ i.val ≤ 55 then invMixWord rk[i] else rk[i]

/-- A full inverse round in table form (R312); `dk` are the decryption round keys. -/
def invTableRound (t : Tables) (dk : RoundKeys) (s : Vector Word 4) (r : Fin 15) : Vector Word 4 :=
  Vector.ofFn fun c =>
    t.td 0 (byteOf s[c] 0) ^^^ t.td 1 (byteOf s[c + 3] 1) ^^^ t.td 2 (byteOf s[c + 2] 2) ^^^ t.td 3 (byteOf s[c + 1] 3)
      ^^^ dk[4 * r.val + c.val]

/-- `InvCipher` in table form (R312). -/
def invTableCipher (t : Tables) (rk : RoundKeys) (b : Block) : Block :=
  let dk := decryptKeys rk
  let s0 : Vector Word 4 := Vector.ofFn fun c => (wordsOfBytes b)[c] ^^^ dk[56 + c.val]
  let s := middleRounds.reverse.foldl (invTableRound t dk) s0
  bytesOfWords (Vector.ofFn fun c =>
    wordOf (t.invSbox (byteOf s[c] 0)) (t.invSbox (byteOf s[c + 3] 1)) (t.invSbox (byteOf s[c + 2] 2))
      (t.invSbox (byteOf s[c + 1] 3)) ^^^ dk[c.val])

/-- What AES_ENC_BLK writes: BLK <- words(Cipher(bytes(BLK))) (R313, R314). -/
def aesEncBlkEffect (s : State) : State := { s with blk := wordsOfBytes (cipher s.rk (bytesOfWords s.blk)) }

/-- AES_ENC_BLK (R314). -/
def execAesEncBlk (s : State) : Host.Outcome State Fault Refusal := command .aesEncBlk noStart aesEncBlkEffect s

/-- What AES_DEC_BLK writes: BLK <- words(InvCipher(bytes(BLK))) (R313, R315). -/
def aesDecBlkEffect (s : State) : State := { s with blk := wordsOfBytes (invCipher s.rk (bytesOfWords s.blk)) }

/-- AES_DEC_BLK (R315). -/
def execAesDecBlk (s : State) : Host.Outcome State Fault Refusal := command .aesDecBlk noStart aesDecBlkEffect s

end Sys2Proof.Machine
end

