-- ==== Sys2Proof/Machine/Modes.lean ====
section
/-! DEFINITION. The chaining modes ECB, CBC and CTR over DBUF (R350 to R358). Each run function gives DBUF after blocks 0 to
n-1, processed in ascending order, block i read before it is written (R352). -/

namespace Sys2Proof.Machine

/-- DBUF after ECB over the first `n` blocks with the block function `f` (R353, R354). -/
def ecbRun (f : Block → Block) (s : State) : Nat → Memory
  | 0 => s.dbuf
  | n + 1 =>
    let t := { s with dbuf := ecbRun f s n }
    (t.writeBlock (s.dst.toNat + 16 * n) (f (t.readBlock (s.src.toNat + 16 * n)))).dbuf

/-- CBC encryption of the first `n` blocks: DBUF and the chaining block (R355). -/
def cbcEncRun (s : State) : Nat → Memory × Block
  | 0 => (s.dbuf, bytesOfWords s.iv)
  | n + 1 =>
    let t := { s with dbuf := (cbcEncRun s n).1 }
    let c := cipher s.rk (xorBlock (t.readBlock (s.src.toNat + 16 * n)) (cbcEncRun s n).2)
    ((t.writeBlock (s.dst.toNat + 16 * n) c).dbuf, c)

/-- CBC decryption of the first `n` blocks: DBUF and the chaining block (R356). -/
def cbcDecRun (s : State) : Nat → Memory × Block
  | 0 => (s.dbuf, bytesOfWords s.iv)
  | n + 1 =>
    let t := { s with dbuf := (cbcDecRun s n).1 }
    let c := t.readBlock (s.src.toNat + 16 * n)
    ((t.writeBlock (s.dst.toNat + 16 * n) (xorBlock (invCipher s.rk c) (cbcDecRun s n).2)).dbuf, c)

/-- `IVINT`, the counter as a 128-bit integer (R46). -/
def ivInt (iv : Vector Word 4) : BitVec 128 := iv[0] ++ iv[1] ++ iv[2] ++ iv[3]

/-- The 16 bytes of a counter, most significant first (R357). -/
def counterBlock (ctr : BitVec 128) : Block :=
  Vector.ofFn fun i => (ctr >>> (8 * (15 - i.val))).setWidth 8

/-- CTR over the first `n` blocks: DBUF and the next counter; the last block may be short (R350, R357, R358). -/
def ctrRun (s : State) : Nat → Memory × BitVec 128
  | 0 => (s.dbuf, ivInt s.iv)
  | n + 1 =>
    let t := { s with dbuf := (ctrRun s n).1 }
    let m := min 16 (s.len.toNat - 16 * n)
    let k := (cipher s.rk (counterBlock (ctrRun s n).2)).toList
    ((t.memWrite (s.dst.toNat + 16 * n) (xorBytes (t.memRead (s.src.toNat + 16 * n) m) (k.take m))).dbuf,
      (ctrRun s n).2 + 1)

/-- What ECB_ENC writes (R353). -/
def ecbEncEffect (s : State) : State :=
  { s with dbuf := ecbRun (cipher s.rk) s (blockCount .ecbEnc s) }

/-- ECB_ENC (R353). -/
def execEcbEnc (s : State) : Host.Outcome State Fault Refusal := command .ecbEnc noStart ecbEncEffect s

/-- What ECB_DEC writes (R354). -/
def ecbDecEffect (s : State) : State :=
  { s with dbuf := ecbRun (invCipher s.rk) s (blockCount .ecbDec s) }

/-- ECB_DEC (R354). -/
def execEcbDec (s : State) : Host.Outcome State Fault Refusal := command .ecbDec noStart ecbDecEffect s

/-- What CBC_ENC writes: the blocks, and the last ciphertext block to IV (R351, R355). -/
def cbcEncEffect (s : State) : State :=
  let r := cbcEncRun s (blockCount .cbcEnc s)
  { s with dbuf := r.1, iv := wordsOfBytes r.2 }

/-- CBC_ENC (R355). -/
def execCbcEnc (s : State) : Host.Outcome State Fault Refusal := command .cbcEnc noStart cbcEncEffect s

/-- What CBC_DEC writes: the blocks, and the last ciphertext block to IV (R351, R356). -/
def cbcDecEffect (s : State) : State :=
  let r := cbcDecRun s (blockCount .cbcDec s)
  { s with dbuf := r.1, iv := wordsOfBytes r.2 }

/-- CBC_DEC (R356). -/
def execCbcDec (s : State) : Host.Outcome State Fault Refusal := command .cbcDec noStart cbcDecEffect s

/-- What CTR_XFORM writes: the data, and the next counter to IV (R351, R358). -/
def ctrXformEffect (s : State) : State :=
  let r := ctrRun s (blockCount .ctrXform s)
  { s with dbuf := r.1, iv := wordsOfBytes (counterBlock r.2) }

/-- CTR_XFORM (R358). -/
def execCtrXform (s : State) : Host.Outcome State Fault Refusal := command .ctrXform noStart ctrXformEffect s

end Sys2Proof.Machine
end

