-- ==== Sys2Proof/Machine/Sha256.lean ====
section
/-! DEFINITION. The SHA-256 engine: functions and constants (R400 to R404), padding, schedule and compression (R405 to R409),
SHA256_RAW and SHA256_PADDED (R411, R412). -/

namespace Sys2Proof.Machine

/-- Ch (R400). -/
def shaCh (x y z : Word) : Word := (x &&& y) ^^^ (~~~x &&& z)

/-- Maj (R400). -/
def shaMaj (x y z : Word) : Word := (x &&& y) ^^^ (x &&& z) ^^^ (y &&& z)

/-- Σ0 (R401). -/
def bigSigma0 (x : Word) : Word := rotr x 2 ^^^ rotr x 13 ^^^ rotr x 22

/-- Σ1 (R401). -/
def bigSigma1 (x : Word) : Word := rotr x 6 ^^^ rotr x 11 ^^^ rotr x 25

/-- σ0 (R402). -/
def smallSigma0 (x : Word) : Word := rotr x 7 ^^^ rotr x 18 ^^^ shr x 3

/-- σ1 (R402). -/
def smallSigma1 (x : Word) : Word := rotr x 17 ^^^ rotr x 19 ^^^ shr x 10

/-- The eight lines of R403's table, each read as one 256-bit number, its first word in the highest bits. -/
def shaKLines : List (BitVec 256) :=
  [0x428a2f98_71374491_b5c0fbcf_e9b5dba5_3956c25b_59f111f1_923f82a4_ab1c5ed5#256,
   0xd807aa98_12835b01_243185be_550c7dc3_72be5d74_80deb1fe_9bdc06a7_c19bf174#256,
   0xe49b69c1_efbe4786_0fc19dc6_240ca1cc_2de92c6f_4a7484aa_5cb0a9dc_76f988da#256,
   0x983e5152_a831c66d_b00327c8_bf597fc7_c6e00bf3_d5a79147_06ca6351_14292967#256,
   0x27b70a85_2e1b2138_4d2c6dfc_53380d13_650a7354_766a0abb_81c2c92e_92722c85#256,
   0xa2bfe8a1_a81a664b_c24b8b70_c76c51a3_d192e819_d6990624_f40e3585_106aa070#256,
   0x19a4c116_1e376c08_2748774c_34b0bcb5_391c0cb3_4ed8aa4a_5b9cca4f_682e6ff3#256,
   0x748f82ee_78a5636f_84c87814_8cc70208_90befffa_a4506ceb_bef9a3f7_c67178f2#256]

/-- K[t] for t < 64: word t mod 8 of line t / 8 (R403). -/
def shaKWord (t : Nat) : Word := (shaKLines.getD (t / 8) 0#256).extractLsb' (32 * (7 - t % 8)) 32

/-- The 64 round constants K in order (R403). -/
def shaK : List Word := (List.range 64).map shaKWord

/-- The hash state H[0..7] (R404, R408). -/
abbrev HashState := Vector Word 8

/-- The initial hash value H0 (R404). -/
def shaH0 : HashState :=
  #v[0x6a09e667#32, 0xbb67ae85#32, 0x3c6ef372#32, 0xa54ff53a#32, 0x510e527f#32, 0x9b05688c#32, 0x1f83d9ab#32, 0x5be0cd19#32]

/-- `BE64(x)`: 8 bytes, most significant first (R405). -/
def be64 (x : Nat) : List Byte := (List.range 8).map fun k => BitVec.ofNat 8 (x / 2 ^ (8 * (7 - k)))

/-- The number of zero bytes of the padding, z = (55 - L) mod 64 (R405). -/
def padZeros (len : Nat) : Nat := (119 - len % 64) % 64

/-- `Pad(M)` (R405). -/
def pad (m : List Byte) : List Byte :=
  m ++ 0x80#8 :: List.replicate (padZeros m.length) 0x00#8 ++ be64 (8 * m.length)

/-- The message words of a 64-byte block (R406). -/
def messageWords (b : List Byte) : List Word :=
  (List.range 16).map fun t =>
    wordOf (b.getD (4 * t) 0#8) (b.getD (4 * t + 1) 0#8) (b.getD (4 * t + 2) 0#8) (b.getD (4 * t + 3) 0#8)

/-- The first `n + 16` words of the message schedule (R407). -/
def shaSchedule (b : List Byte) : Nat → List Word
  | 0 => messageWords b
  | n + 1 =>
    let w := shaSchedule b n
    w ++ [smallSigma1 (w.getD (n + 14) 0#32) + w.getD (n + 9) 0#32 + smallSigma0 (w.getD (n + 1) 0#32) + w.getD n 0#32]

/-- The working variables a to h (R408). -/
structure Working where
  a : Word
  b : Word
  c : Word
  d : Word
  e : Word
  f : Word
  g : Word
  h : Word
  deriving DecidableEq, Repr

/-- One compression round with the constant and the schedule word of its number (R408). -/
def shaRound (v : Working) (kw : Word × Word) : Working :=
  let t1 := v.h + bigSigma1 v.e + shaCh v.e v.f v.g + kw.1 + kw.2
  let t2 := bigSigma0 v.a + shaMaj v.a v.b v.c
  ⟨t1 + t2, v.a, v.b, v.c, v.d + t1, v.e, v.f, v.g⟩

/-- The working variables after the 64 rounds (R408). -/
def shaRounds (h : HashState) (b : List Byte) : Working :=
  (List.zip shaK (shaSchedule b 48)).foldl shaRound ⟨h[0], h[1], h[2], h[3], h[4], h[5], h[6], h[7]⟩

/-- `Compress(H, B)` (R408). -/
def shaCompress (h : HashState) (b : List Byte) : HashState :=
  let v := shaRounds h b
  #v[h[0] + v.a, h[1] + v.b, h[2] + v.c, h[3] + v.d, h[4] + v.e, h[5] + v.f, h[6] + v.g, h[7] + v.h]

/-- Compression of the first `n` of a sequence of blocks, from H0 (R409, R412). -/
def shaBlocks (block : Nat → List Byte) : Nat → HashState
  | 0 => shaH0
  | n + 1 => shaCompress (shaBlocks block n) (block n)

/-- Block i of a byte string: its bytes 64i to 64i + 63. -/
def blockOf (m : List Byte) (i : Nat) : List Byte := (m.drop (64 * i)).take 64

/-- `SHA256(M)` (R409). -/
def sha256 (m : List Byte) : HashState := shaBlocks (blockOf (pad m)) ((pad m).length / 64)

/-- What SHA256_RAW writes: DIGEST (R411). -/
def sha256RawEffect (s : State) : State :=
  { s with digest := sha256 (s.memRead s.src.toNat s.len.toNat) }

/-- SHA256_RAW (R411). -/
def execSha256Raw (s : State) : Host.Outcome State Fault Refusal := command .sha256Raw noStart sha256RawEffect s

/-- What SHA256_PADDED writes: DIGEST (R412); the padding is not checked. -/
def sha256PaddedEffect (s : State) : State :=
  { s with digest := shaBlocks (fun i => s.memRead (s.src.toNat + 64 * i) 64) (blockCount .sha256Padded s) }

/-- SHA256_PADDED (R412). -/
def execSha256Padded (s : State) : Host.Outcome State Fault Refusal := command .sha256Padded noStart sha256PaddedEffect s

end Sys2Proof.Machine
end

