-- ==== Sys2Proof/Machine/Dispatch.lean ====
section
/-! DEFINITION. The dispatch: one arm per command of R151. -/

namespace Sys2Proof.Machine

/-- What command `i` does at `s`: it is issued when the phase is IDLE, carried out and completed when it is running. -/
def exec (i : Instr) (s : State) : Host.Outcome State Fault Refusal :=
  match i with
  | .tblGen => Sys2Proof.Machine.execTblGen s
  | .keyExpand => Sys2Proof.Machine.execKeyExpand s
  | .aesEncBlk => Sys2Proof.Machine.execAesEncBlk s
  | .aesDecBlk => Sys2Proof.Machine.execAesDecBlk s
  | .ecbEnc => Sys2Proof.Machine.execEcbEnc s
  | .ecbDec => Sys2Proof.Machine.execEcbDec s
  | .cbcEnc => Sys2Proof.Machine.execCbcEnc s
  | .cbcDec => Sys2Proof.Machine.execCbcDec s
  | .ctrXform => Sys2Proof.Machine.execCtrXform s
  | .sha256Raw => Sys2Proof.Machine.execSha256Raw s
  | .sha256Padded => Sys2Proof.Machine.execSha256Padded s

end Sys2Proof.Machine
end

