-- ==== Sys2Proof/Machine/Bus.lean ====
section
/-! DEFINITION. The Host's bus accesses: the address map (R32, R100, R102), register reads and writes (R33 to R50), DBUF accesses
(R103 to R107), what a busy core does with them (R109, R110), and a command word written to CMD (R160). -/

namespace Sys2Proof.Machine

/-- The registers of R32. -/
inductive Reg where
  | id | version | ctrl | cmd | status | irqEn | progress | src | dst | len
  | key (k : Fin 8) | iv (k : Fin 4) | blk (k : Fin 4) | digest (k : Fin 8)
  | tblAddr | tblData
  | rk (i : Fin 60)
  deriving DecidableEq, Repr

/-- The aperture offset of a register (R32). -/
def Reg.offset : Reg → Nat
  | .id => 0x000
  | .version => 0x004
  | .ctrl => 0x008
  | .cmd => 0x00C
  | .status => 0x010
  | .irqEn => 0x014
  | .progress => 0x01C
  | .src => 0x020
  | .dst => 0x024
  | .len => 0x028
  | .key k => 0x040 + 4 * k.val
  | .iv k => 0x060 + 4 * k.val
  | .blk k => 0x070 + 4 * k.val
  | .digest k => 0x080 + 4 * k.val
  | .tblAddr => 0x0A0
  | .tblData => 0x0A4
  | .rk i => 0x100 + 4 * i.val

/-- The register at word number `w` of the aperture (offset 4w), none if it is unmapped (R32, R53). -/
def Reg.atWord (w : Nat) : Option Reg :=
  if w = 0 then some .id
  else if w = 1 then some .version
  else if w = 2 then some .ctrl
  else if w = 3 then some .cmd
  else if w = 4 then some .status
  else if w = 5 then some .irqEn
  else if w = 7 then some .progress
  else if w = 8 then some .src
  else if w = 9 then some .dst
  else if w = 10 then some .len
  else if h : 16 ≤ w ∧ w < 24 then some (.key ⟨w - 16, by omega⟩)
  else if h : 24 ≤ w ∧ w < 28 then some (.iv ⟨w - 24, by omega⟩)
  else if h : 28 ≤ w ∧ w < 32 then some (.blk ⟨w - 28, by omega⟩)
  else if h : 32 ≤ w ∧ w < 40 then some (.digest ⟨w - 32, by omega⟩)
  else if w = 40 then some .tblAddr
  else if w = 41 then some .tblData
  else if h : 64 ≤ w ∧ w < 124 then some (.rk ⟨w - 64, by omega⟩)
  else none

/-- The "volatile" column of R32: read as 0 while BUSY = 1 (R110). -/
def Reg.isVolatile : Reg → Bool
  | .iv _ | .blk _ | .digest _ | .tblData | .rk _ => true
  | .id | .version | .ctrl | .cmd | .status | .irqEn | .progress | .src | .dst | .len | .key _ | .tblAddr => false

/-- The "locked" column of R32: a write while BUSY = 1 is dropped (R109). -/
def Reg.isLocked : Reg → Bool
  | .src | .dst | .len | .key _ | .iv _ | .blk _ | .tblAddr => true
  | .id | .version | .ctrl | .cmd | .status | .irqEn | .progress | .digest _ | .tblData | .rk _ => false

/-- The number of bytes of an access (R101). -/
def Size.bytes : Size → Nat
  | .byte => 1
  | .half => 2
  | .word => 4

/-- What an access reaches: a register, or DBUF from an offset up. -/
inductive Target where
  | reg (r : Reg)
  | dbuf (a : Nat)
  deriving DecidableEq, Repr

/-- The target of an access, none for BUS_ERROR: registers take aligned 32-bit accesses only (R105), DBUF naturally aligned ones
(R106), and an unmapped offset none (R53, R102, R107). -/
def target (c : Config) (off : Offset) (size : Size) : Option Target :=
  if off.toNat < 0x10000 then
    if size = .word ∧ off.toNat % 4 = 0 then (Reg.atWord (off.toNat / 4)).map .reg else none
  else if (off.toNat - 0x10000) % size.bytes = 0 ∧ off.toNat - 0x10000 + size.bytes ≤ c.dbufBytes then
    some (.dbuf (off.toNat - 0x10000))
  else none

/-- The value of a register, before R110: ID and VERSION are constants (R37), CTRL reads 0 (R34), CMD reads LASTCMD (R35),
TBL_DATA reads the table entry TBL_ADDR selects (R50). -/
def regValue (s : State) : Reg → Word
  | .id => 0x56434130#32
  | .version => 0x00000007#32
  | .ctrl => 0#32
  | .cmd => s.lastCmd
  | .status => statusWord s
  | .irqEn => irqEnWord s
  | .progress => s.progress
  | .src => s.src
  | .dst => s.dst
  | .len => s.len
  | .key k => s.key[k]
  | .iv k => s.iv[k]
  | .blk k => s.blk[k]
  | .digest k => s.digest[k]
  | .tblAddr => tblAddrWord s
  | .tblData => s.tbl.read s.tblSel s.tblIdx
  | .rk i => s.rk[i]

/-- What a Host read of a register returns: a volatile one reads 0 while BUSY = 1 (R110). -/
def readReg (s : State) (r : Reg) : Word := if r.isVolatile && s.busy then 0#32 else regValue s r

/-- What a Host read of a DBUF region returns: big-endian (R103), 0 while BUSY = 1 (R110). -/
def readDbuf (s : State) (a : Nat) (size : Size) : Word :=
  if s.busy then 0#32 else beValue (s.memRead a size.bytes)

/-- A Host write of `v` to KEY[k]: it also clears KS_VALID, whatever the value; RK is left (R44). -/
def writeKey (k : Fin 8) (v : Word) (s : State) : State := { s with key := s.key.set k v, ksValid := false }

/-- A Host write of `v` to TBL_ADDR; bits 31:12 are reserved (R49). -/
def writeTblAddr (v : Word) (s : State) : State :=
  { s with tblSel := v.extractLsb' 8 4, tblIdx := v.extractLsb' 0 8 }

/-- A Host write of `v` to CTRL: bit 0 = 1 is a soft reset, at any time (R34). -/
def writeCtrl (v : Word) (s : State) : State := if v.getLsbD 0 then softReset s else s

/-- A Host write of `v` to CMD (R160): an overrun while busy (R165), rejected with E_OPCODE when illegal (R153), else what the
decoded command does when issued. -/
def issue (v : Word) (s : State) : Host.Outcome State Fault Refusal :=
  if s.busy then .next (overrun s)
  else
    match decode v with
    | .error _ => .next (reject v .eOpcode s)
    | .ok i => exec i s

/-- A Host write of `v` to a register that is not CMD and not dropped: read-only registers ignore it (R33, R108). -/
def writePlainReg (r : Reg) (v : Word) (s : State) : State :=
  match r with
  | .ctrl => writeCtrl v s
  | .status => writeStatus v s
  | .irqEn => writeIrqEn v s
  | .src => { s with src := v }
  | .dst => { s with dst := v }
  | .len => { s with len := v }
  | .key k => writeKey k v s
  | .iv k => { s with iv := s.iv.set k v }
  | .blk k => { s with blk := s.blk.set k v }
  | .tblAddr => writeTblAddr v s
  | .id | .version | .cmd | .progress | .digest _ | .tblData | .rk _ => s

/-- A Host write to a register: CMD issues a command, a locked register drops the write while BUSY = 1 (R109). -/
def writeReg (r : Reg) (v : Word) (s : State) : Host.Outcome State Fault Refusal :=
  if r = .cmd then issue v s
  else if r.isLocked && s.busy then .next (dropWrite s)
  else .next (writePlainReg r v s)

/-- A Host write to DBUF: big-endian (R103), dropped while BUSY = 1 (R109). -/
def writeDbuf (a : Nat) (size : Size) (v : Word) (s : State) : State :=
  if s.busy then dropWrite s else s.memWrite a (beBytes size.bytes v)

/-- The response of a bus transaction (R101): BUS_ERROR where nothing is reached, else OK, with the value for a read. -/
def responseOf (t : Transaction) (s : State) : Response :=
  match t with
  | .read off size =>
    match target s.config off size with
    | some (.reg r) => .okRead (readReg s r)
    | some (.dbuf a) => .okRead (readDbuf s a size)
    | none => .busError
  | .write off size _ =>
    match target s.config off size with
    | some _ => .okWrite
    | none => .busError

/-- A bus transaction, its response given (R101): a read has no side effect (R111), and neither has a BUS_ERROR (R503). -/
def bus (t : Transaction) (s : State) : Host.Outcome State Fault Refusal :=
  let u := { s with response := some (responseOf t s) }
  match t with
  | .read _ _ => .next u
  | .write off size v =>
    match target s.config off size with
    | some (.reg r) => writeReg r v u
    | some (.dbuf a) => .next (writeDbuf a size v u)
    | none => .next u

end Sys2Proof.Machine
end

