-- ==== Sys2Proof/Machine/HostProgram.lean ====
section
/-! DEFINITION. The Host as an agent that runs a Host program, one line a turn (R157), and the pseudo-instructions of that
notation (R158). -/

namespace Sys2Proof.Machine

/-- `WAIT` = `POLL 0x010, 0x00000001, 0x00000000` (R158). -/
def hostWait : HostLine := .poll 0x010#17 1#32 0#32

/-- `RUN m` (R158). -/
def hostRun (i : Instr) : List HostLine := [.write .word 0x00C#17 (.lit (encode i)), hostWait]

/-- 32-bit writes of `vs`, each a number or a Host variable's value (R157), to the words from `off` up. -/
def hostWords (off : Nat) (vs : List HostValue) : List HostLine :=
  vs.mapIdx fun k v => .write .word (BitVec.ofNat 17 (off + 4 * k)) v

/-- `SETKEY k0, ..., k7` (R158). -/
def hostSetKey (k : Vector HostValue 8) : List HostLine := hostWords 0x040 k.toList

/-- `SETIV v0, ..., v3` (R158). -/
def hostSetIv (v : Vector HostValue 4) : List HostLine := hostWords 0x060 v.toList

/-- `SETBLK v0, ..., v3` (R158). -/
def hostSetBlk (v : Vector HostValue 4) : List HostLine := hostWords 0x070 v.toList

/-- `ACK` (R158). -/
def hostAck : HostLine := .write .word 0x010#17 (.lit 0x32#32)

/-- The value listed for a variable. -/
def lookupVar : List (Nat × Word) → Nat → Option Word
  | [], _ => none
  | (y, v) :: vs, x => if y = x then some v else lookupVar vs x

/-- A variable's value; free while no line has given it one (R157 leaves it open; log entry 10). -/
def HostAgent.value (h : HostAgent) (x : Nat) : Word := (lookupVar h.vars x).getD (Config.freeHostWord x)

/-- The value a write line writes (R157). -/
def HostAgent.operand (h : HostAgent) : HostValue → Word
  | .lit v => v
  | .var x => h.value x

/-- Giving a variable a value, or, with none, leaving it without one. -/
def HostAgent.assign (h : HostAgent) (x : Nat) (v : Option Word) : HostAgent :=
  let rest := h.vars.filter fun p => p.1 != x
  { h with vars := match v with
                   | some w => (x, w) :: rest
                   | none => rest }

/-- The Host at the next line. -/
def HostAgent.next (h : HostAgent) : HostAgent := { h with line := h.line + 1 }

/-- The Host at a label. -/
def HostAgent.goto (h : HostAgent) (label : Nat) : HostAgent := { h with line := label }

/-- The line the Host is at; past the last line it has halted. -/
def HostAgent.current (h : HostAgent) : HostLine := h.program.getD h.line .halt

/-- The bus transaction of a line (R157), none for a line of Host-side control. -/
def HostAgent.transaction (h : HostAgent) : HostLine → Option Transaction
  | .write size off val => some (.write off size (h.operand val))
  | .read off _ => some (.read off .word)
  | .check off _ => some (.read off .word)
  | .poll off _ _ => some (.read off .word)
  | .bne _ _ _ | .beq _ _ _ | .set _ _ | .add _ _ | .halt => none

/-- The value the last transaction read, none for a write or a BUS_ERROR (R107: a read then returns no value). -/
def readValue (r : Option Response) : Option Word :=
  match r with
  | some (.okRead v) => some v
  | some .okWrite | some .busError | none => none

/-- What the Host does at a line, the response of its transaction given (R157). -/
def HostAgent.after (h : HostAgent) (l : HostLine) (r : Option Response) : HostAgent :=
  match l with
  | .write _ _ _ => h.next
  | .read _ x => (h.assign x (readValue r)).next
  | .check _ val => { h.next with checkFailed := h.checkFailed || readValue r != some val }
  | .poll _ mask val => if (readValue r).map (· &&& mask) = some val then h.next else h
  | .bne x val label => if h.value x ≠ val then h.goto label else h.next
  | .beq x val label => if h.value x = val then h.goto label else h.next
  | .set x val => (h.assign x (some val)).next
  | .add x val => (h.assign x (some (h.value x + val))).next
  | .halt => h

/-- The Host's own part of a turn, after its bus transaction. -/
def hostAfter (l : HostLine) (s : State) : State := { s with host := s.host.after l s.response }

/-- One turn of the Host's program: the line's bus transaction, if it has one, then the Host's own part (R157). -/
def hostLine (s : State) : Host.Outcome State Fault Refusal :=
  match s.host.transaction s.host.current with
  | none => .next (hostAfter s.host.current s)
  | some t =>
    match bus t s with
    | .next u => .next (hostAfter s.host.current u)
    | .fault r => .fault r
    | .refused r => .refused r

end Sys2Proof.Machine
end

