-- ==== Sys2Proof/Machine/Sequencer.lean ====
section
/-! DEFINITION. The Sequencer's turns inside a busy interval (R51, R162 to R164, R602, R631). -/

namespace Sys2Proof.Machine

/-- One more finished data block while command `i` runs: PROGRESS only increases, one at a time, to at most the block count
(R39). -/
def advance (i : Instr) (s : State) : State :=
  if s.progress.toNat < blockCount i s then { s with progress := s.progress + 1#32 } else s

/-- A Sequencer step. IDLE: nothing (R516). GEN: the reset-time generation ends (R602), or goes on unseen. EXEC: the command
completes (R162), one more block is finished (R39), or it goes on unseen. How many steps an interval takes is open (R164,
U5): the turns to come say. -/
def sequencer (a : SeqStep) (s : State) : Host.Outcome State Fault Refusal :=
  match s.phase with
  | .idle => .next s
  | .gen =>
    match a with
    | .work | .block => .next s
    | .finish => .next (finishGeneration s)
  | .exec i =>
    match a with
    | .work => .next s
    | .block => .next (advance i s)
    | .finish => exec i s

end Sys2Proof.Machine
end

