-- ==== Sys2Proof/Machine/Turn.lean ====
section
/-! DEFINITION. The turns a step is made of: the turn of each event, the turn taken when none is listed, and the end of a busy
interval (R5, R507, R516, R631). -/

namespace Sys2Proof.Machine

/-- The turn of one event. -/
def turn (e : Event) (s : State) : Host.Outcome State Fault Refusal :=
  match e with
  | .bus t => bus t s
  | .hostLine => hostLine s
  | .sequencer a => sequencer a s
  | .hardReset => .next (hardReset s)

/-- The turn taken when `inputs` lists none: a busy Sequencer ends its interval (R631), an idle core changes only by a Host
transaction (R516), so the Host's program goes on. -/
def defaultEvent (s : State) : Event := if s.busy then .sequencer .finish else .hostLine

/-- The state in which the busy interval, if one runs, has ended by its own completion. -/
def settle (s : State) : State :=
  match sequencer .finish s with
  | .next t => t
  | .fault _ => s
  | .refused _ => s

end Sys2Proof.Machine
end

