-- ==== Sys2Proof/Machine/Step.lean ====
section
/-! DEFINITION. One step of the machine: one turn of one agent, whole (R5, R507). -/

namespace Sys2Proof.Machine

/-- One step: the oldest turn to come, or the default one. -/
def step (s : State) : Host.Outcome State Fault Refusal :=
  match s.inputs with
  | [] => turn (defaultEvent s) s
  | e :: rest => turn e { s with inputs := rest }

/-- The state whose very next step issues the word: a running busy interval has ended, so that the write is no overrun (R606),
and the next turn is the Host's 32-bit write of the word to CMD, which is how a command reaches the machine (R123, R150). -/
def State.withFetchWord (s : State) (nbits w : Nat) : State :=
  { settle s with inputs := .bus (.write 0x00C#17 .word (tableWord nbits w)) :: s.inputs }

end Sys2Proof.Machine
end

