-- ==== Sys2Proof/Safety.lean ====
section
/-! DEFINITION. The terms claims are stated in: what a step answers, when a command runs, and the invariant of a legal state. -/

namespace Sys2Proof.Machine

/-- `s` steps to `t`. -/
abbrev StepsTo (s t : State) : Prop := step s = .next t

/-- `t` is reached from `s` by some number of steps. -/
inductive Reaches : State → State → Prop where
  | refl (s : State) : Reaches s s
  | tail {s t u : State} : Reaches s t → StepsTo t u → Reaches s u

/-- Command `i` is running and the checks it was accepted under still hold (R162, R163). -/
def Running (i : Instr) (s : State) : Prop := s.phase = .exec i ∧ rejection i s = none

/-- The tables hold the values of 40_gf_sbox.md (R36, R216). -/
def TablesReady (s : State) : Prop := s.tblValid = true ∧ s.tbl = Tables.generated

/-- What every reachable state satisfies. -/
structure State.Inv (s : State) : Prop where
  /-- DBUF_BYTES is legal (R11). -/
  configLegal : s.config.wf = true
  /-- DBUF is canonical. -/
  dbufCanonical : Memory.wf s.dbuf
  /-- DBUF holds nothing at or beyond DBUF_BYTES (R102). -/
  dbufInside : ∀ c ∈ s.dbuf, c.1 < s.config.dbufBytes
  /-- Outside a table generation TBL_VALID = 1 and the tables hold their values (R216). -/
  tablesReady : s.phase ≠ .gen → s.phase ≠ .exec .tblGen → TablesReady s
  /-- During a table generation TBL_VALID = 0 (R36, R215, R602). -/
  tablesInvalid : s.phase = .gen ∨ s.phase = .exec .tblGen → s.tblValid = false
  /-- KS_VALID = 1 only when RK is the expansion of the current KEY (R36). -/
  scheduleCurrent : s.ksValid = true → s.rk = expandKey s.key
  /-- The checks of the running command still hold: nothing has changed its operands (R109, R163). -/
  operandsKept : ∀ i, s.phase = .exec i → rejection i s = none
  /-- The record of the running command is the one acceptance wrote, PROGRESS at most its block count (R39, R161). -/
  runningRecord : ∀ i, s.phase = .exec i →
    s.lastCmd = encode i ∧ s.done = false ∧ s.err = .eNone ∧ s.progress.toNat ≤ blockCount i s
  /-- During the reset-time generation no command has been recorded (R54, R602). -/
  generationRecord : s.phase = .gen →
    s.lastCmd = 0#32 ∧ s.done = false ∧ s.err = .eNone ∧ s.progress = 0#32 ∧ s.ksValid = false

end Sys2Proof.Machine
end

