-- ==== Sys2Proof/Certificates/Slice0/Obligations.lean ====
section
/-! DEFINITION. The statements for the provers, about the rules R<n> of spec/. `Running i s` says that command `i` runs and that
the checks it was accepted under hold. -/

open Sys2Proof Sys2Proof.Machine

/-! ### Encoding -/

/-- R151: a word is legal exactly when it is one of the eleven, each for its own command. -/
def Obligations.OpcodeMapIsExact : Prop :=
  ∀ (v : Word) (i : Instr), decode v = .ok i ↔
    (v, i) ∈ ([(0x00000001#32, .tblGen), (0x00000010#32, .keyExpand), (0x00000020#32, .aesEncBlk),
      (0x00000021#32, .aesDecBlk), (0x00000030#32, .ecbEnc), (0x00000031#32, .ecbDec), (0x00000032#32, .cbcEnc),
      (0x00000033#32, .cbcDec), (0x00000034#32, .ctrXform), (0x00000040#32, .sha256Raw),
      (0x00000041#32, .sha256Padded)] : List (Word × Instr))

/-- The round trip in both directions, and through the table's numbering. -/
def Obligations.DecodeAndEncodeAgree : Prop :=
  (∀ i : Instr, decode (encode i) = .ok i) ∧ (∀ (v : Word) (i : Instr), decode v = .ok i → encode i = v) ∧
    ∀ i : Instr, decodeTableWord 32 (encode i).toNat = some i

/-- Words written out from R151's table decode to their commands (a sanity statement). -/
def Obligations.WrittenOutWordsDecode : Prop :=
  decode 0x00000001#32 = .ok .tblGen ∧ decode 0x00000010#32 = .ok .keyExpand ∧ decode 0x00000021#32 = .ok .aesDecBlk ∧
    decode 0x00000032#32 = .ok .cbcEnc ∧ decode 0x00000034#32 = .ok .ctrXform ∧ decode 0x00000041#32 = .ok .sha256Padded

/-- R153: a word with RSVD not 0, or an OP outside R151's table, is illegal, and no other; written to CMD while idle it is
rejected with E_OPCODE, which changes the record (R161, R167) and nothing else. -/
def Obligations.IllegalWordIsRejected : Prop :=
  ∀ v : Word,
    ((∀ i, decode v ≠ .ok i) ↔
      v.extractLsb' 8 24 ≠ 0#24 ∨
      v.extractLsb' 0 8 ∉ [0x01#8, 0x10#8, 0x20#8, 0x21#8, 0x30#8, 0x31#8, 0x32#8, 0x33#8, 0x34#8, 0x40#8, 0x41#8]) ∧
    ∀ (s : State) (rest : List Event), s.inputs = .bus (.write 0x00C#17 .word v) :: rest → s.phase = .idle →
      (∀ i, decode v ≠ .ok i) →
      step s = .next { s with
        inputs := rest, response := some .okWrite, lastCmd := v, done := true, err := .eOpcode, progress := 0#32 }

/-! ### Steps -/

/-- A CMD write to an idle core, of a word that decodes to `i`, is `exec i`, the turn and its response taken off first;
`withFetchWord` makes the very next step such a write. That turns come from a list is the model's choice (log entries 1, 7). -/
def Obligations.StepRunsDecodedCommand : Prop :=
  (∀ (s : State) (rest : List Event) (v : Word) (i : Instr),
    s.inputs = .bus (.write 0x00C#17 .word v) :: rest → s.busy = false → decode v = .ok i →
      step s = exec i { s with inputs := rest, response := some .okWrite }) ∧
  ∀ (s : State) (nbits w : Nat) (i : Instr), decodeTableWord nbits w = some i →
    (settle s).busy = false ∧
      step (s.withFetchWord nbits w) = exec i { settle s with inputs := s.inputs, response := some .okWrite }

/-- The Sequencer's finishing turn is `exec` of the running command; so is the default turn of a busy core (the model's choice,
log entry 7). -/
def Obligations.SequencerRunsTheRunningCommand : Prop :=
  ∀ (s : State) (i : Instr), s.phase = .exec i →
    (∀ rest, s.inputs = .sequencer .finish :: rest → step s = exec i { s with inputs := rest }) ∧
      (s.inputs = [] → step s = exec i s)

/-- No step faults or is refused: every state has a next one (that a BUS_ERROR is a response is log entry 15). -/
def Obligations.EveryStepAnswersNext : Prop := ∀ s : State, ∃ t, step s = .next t

/-- R516: an idle core does not change on a turn that is neither a bus transaction nor a reset: on a Sequencer turn nothing but the
list of turns moves, on a Host line without a transaction the Host alone (R157; the Host as an agent, halted past its last line,
is the model's choice, log entry 9), and so when no turn is listed (that the Host's line is then taken is log entry 7). -/
def Obligations.IdleCoreIsUnchanged : Prop :=
  ∀ s : State, s.phase = .idle →
    (∀ a rest, s.inputs = .sequencer a :: rest → step s = .next { s with inputs := rest }) ∧
    (s.host.transaction s.host.current = none →
      (∀ rest, s.inputs = .hostLine :: rest →
        step s = .next { s with inputs := rest, host := s.host.after s.host.current s.response }) ∧
      (s.inputs = [] → step s = .next { s with host := s.host.after s.host.current s.response })) ∧
    (s.inputs = [] → s.host.current = .halt → step s = .next s)

/-! ### The command protocol -/

/-- R161, R162: acceptance of a command whose checks pass starts the busy interval with a fresh record; TBL_GEN also clears
TBL_VALID (R215) and leaves free table contents (log entries 4 and 6), and nothing else changes. -/
def Obligations.AcceptanceStartsBusyInterval : Prop :=
  ∀ (i : Instr) (s : State), s.phase = .idle → rejection i s = none →
    ∃ t, exec i s = .next t ∧ t.busy = true ∧
      (i ≠ .tblGen → t = { s with
        lastCmd := encode i, done := false, err := .eNone, progress := 0#32, phase := .exec i }) ∧
      (i = .tblGen → t = { s with
        lastCmd := encode i, done := false, err := .eNone, progress := 0#32, phase := .exec i, tblValid := false,
        tbl := t.tbl, draws := t.draws })

/-- R167: a command that fails a check, and a word that is no command, change LASTCMD, DONE, ERR and PROGRESS (R161), and nothing
else; BUSY stays 0. -/
def Obligations.RejectionChangesOnlyTheRecord : Prop :=
  (∀ (i : Instr) (s : State) (e : ErrCode), s.phase = .idle → rejection i s = some e →
    ∃ t, exec i s = .next t ∧ t = { s with lastCmd := encode i, done := true, err := e, progress := 0#32 } ∧
      t.busy = false) ∧
  ∀ (v : Word) (s : State), s.phase = .idle → (∀ i, decode v ≠ .ok i) →
    ∃ t, issue v s = .next t ∧ t = { s with lastCmd := v, done := true, err := .eOpcode, progress := 0#32 } ∧
      t.busy = false

/-- R166, R168 to R173: the code a command is rejected with, as one formula over KS_VALID, SRC, DST, LEN and DBUF_BYTES. -/
def Obligations.ChecksFollowTheProtocol : Prop :=
  ∀ (i : Instr) (s : State),
    let keyed := i ∈ [Instr.aesEncBlk, .aesDecBlk, .ecbEnc, .ecbDec, .cbcEnc, .cbcDec, .ctrXform]
    let chained := i ∈ [Instr.ecbEnc, .ecbDec, .cbcEnc, .cbcDec]
    let usesDst := chained ∨ i = .ctrXform
    let usesSrc := usesDst ∨ i = .sha256Raw ∨ i = .sha256Padded
    let src := s.src.toNat
    let dst := s.dst.toNat
    let len := s.len.toNat
    (keyed ∧ s.ksValid = false → rejection i s = some .eNoKey) ∧
    (¬ (keyed ∧ s.ksValid = false) →
      ((chained ∧ len % 16 ≠ 0) ∨ (i = .sha256Padded ∧ len % 64 ≠ 0) → rejection i s = some .eLen) ∧
      (¬ ((chained ∧ len % 16 ≠ 0) ∨ (i = .sha256Padded ∧ len % 64 ≠ 0)) →
        ((usesSrc ∧ src % 4 ≠ 0) ∨ (usesDst ∧ dst % 4 ≠ 0) → rejection i s = some .eAlign) ∧
        (¬ ((usesSrc ∧ src % 4 ≠ 0) ∨ (usesDst ∧ dst % 4 ≠ 0)) →
          ((usesSrc ∧ src + len > s.config.dbufBytes) ∨ (usesDst ∧ dst + len > s.config.dbufBytes) →
            rejection i s = some .eRange) ∧
          (¬ ((usesSrc ∧ src + len > s.config.dbufBytes) ∨ (usesDst ∧ dst + len > s.config.dbufBytes)) →
            (usesDst ∧ len > 0 ∧ src ≠ dst ∧ src < dst + len ∧ dst < src + len → rejection i s = some .eOverlap) ∧
            (¬ (usesDst ∧ len > 0 ∧ src ≠ dst ∧ src < dst + len ∧ dst < src + len) → rejection i s = none)))))

/-- R165: a CMD write while BUSY = 1 sets CMD_OVERRUN and has no other effect, whatever the word. -/
def Obligations.OverrunSetsOnlyItsFlag : Prop :=
  ∀ (s : State) (rest : List Event) (v : Word), s.inputs = .bus (.write 0x00C#17 .word v) :: rest → s.busy = true →
    step s = .next { s with inputs := rest, response := some .okWrite, cmdOverrun := true }

/-- R162: an accepted command completes successfully, with its block count in PROGRESS. -/
def Obligations.AcceptedCommandCompletes : Prop :=
  ∀ (i : Instr) (s : State), s.phase = .idle → rejection i s = none →
    ∃ t u, exec i s = .next t ∧ exec i t = .next u ∧ u.phase = .idle ∧ u.busy = false ∧ u.done = true ∧ u.err = .eNone ∧
      u.lastCmd = encode i ∧ u.progress = BitVec.ofNat 32 (blockCount i s)

/-- R39: inside a busy interval PROGRESS never decreases, grows by at most one a turn and stays at or below the block count. That
a turn that does not finish the command changes PROGRESS alone is the model's choice: results are applied at completion, as R163
allows (log entries 8 and 18). -/
def Obligations.ProgressCountsUpToBlockCount : Prop :=
  ∀ (s : State) (i : Instr) (a : SeqStep) (rest : List Event), s.phase = .exec i →
    s.progress.toNat ≤ blockCount i s → a ≠ .finish → s.inputs = .sequencer a :: rest →
    ∃ t, step s = .next t ∧ t = { s with inputs := rest, progress := t.progress } ∧
      (t.progress = s.progress ∨ t.progress.toNat = s.progress.toNat + 1) ∧ t.progress.toNat ≤ blockCount i s

/-- R40 to R43: no command changes an operand register, KEY, TBL_ADDR, IRQ_EN, WR_IGNORED, the parameters, or the Host's side. -/
def Obligations.CommandsKeepOperandRegisters : Prop :=
  ∀ (i : Instr) (s t : State), exec i s = .next t →
    t.src = s.src ∧ t.dst = s.dst ∧ t.len = s.len ∧ t.key = s.key ∧ t.tblSel = s.tblSel ∧ t.tblIdx = s.tblIdx ∧
      t.doneIE = s.doneIE ∧ t.ovrIE = s.ovrIE ∧ t.wrIgnored = s.wrIgnored ∧ t.config = s.config ∧ t.host = s.host ∧
      t.inputs = s.inputs ∧ t.response = s.response

/-- R174: LEN = 0 fails no length check; with it a mode command writes no DBUF byte and leaves IV, SHA256_RAW hashes the empty
message, SHA256_PADDED leaves H0. -/
def Obligations.ZeroLengthIsLegal : Prop :=
  (∀ (i : Instr) (s : State), s.len = 0#32 → rejection i s ≠ some .eLen) ∧
  ∀ (i : Instr) (s : State), s.phase = .exec i → s.len = 0#32 →
    (i ∈ [Instr.ecbEnc, .ecbDec, .cbcEnc, .cbcDec, .ctrXform] →
      exec i s = .next { s with progress := 0#32, err := .eNone, done := true, phase := .idle }) ∧
    (i = .sha256Raw →
      exec i s = .next { s with digest := sha256 [], progress := 1#32, err := .eNone, done := true, phase := .idle }) ∧
    (i = .sha256Padded →
      exec i s = .next { s with digest := shaH0, progress := 0#32, err := .eNone, done := true, phase := .idle })

/-! ### Galois field and tables -/

/-- R203: ginv(0) = 0, and for a not 0, ginv(a) is the one b with gmul(a, b) = 1. -/
def Obligations.GinvIsTheUniqueInverse : Prop :=
  ginv 0x00#8 = 0x00#8 ∧ ∀ a b : Byte, a ≠ 0x00#8 → (gmul a b = 0x01#8 ↔ b = ginv a)

/-- R206: INV_SBOX is the inverse permutation of SBOX. -/
def Obligations.InverseSboxInvertsSbox : Prop := ∀ x : Byte, invSbox (sbox x) = x ∧ sbox (invSbox x) = x

/-- R207: the eight values, no fixed point and no opposite fixed point. -/
def Obligations.SboxHasNoFixedPoint : Prop :=
  sbox 0x00#8 = 0x63#8 ∧ sbox 0x01#8 = 0x7C#8 ∧ sbox 0x53#8 = 0xED#8 ∧ sbox 0xFF#8 = 0x16#8 ∧
    invSbox 0x63#8 = 0x00#8 ∧ invSbox 0x00#8 = 0x52#8 ∧ ∀ x : Byte, sbox x ≠ x ∧ sbox x ≠ x ^^^ 0xFF#8

/-- R212: the rotation identities of the T-tables, and its examples. -/
def Obligations.TablesAreRotations : Prop :=
  (∀ (k : Fin 4) (x : Byte), k ≠ 0 → te k x = rotr (te 0 x) (8 * k.val) ∧ td k x = rotr (td 0 x) (8 * k.val)) ∧
    te 0 0x00#8 = 0xC66363A5#32 ∧ te 1 0x00#8 = 0xA5C66363#32 ∧ te 2 0x00#8 = 0x63A5C663#32 ∧
    te 3 0x00#8 = 0x6363A5C6#32 ∧ td 0 0x00#8 = 0x51F4A750#32 ∧ td 1 0x00#8 = 0x5051F4A7#32 ∧
    te 0 0x53#8 = 0xC1EDED2C#32 ∧ td 0 0xFF#8 = 0xD0B85742#32

/-- R50, R52, R215: what TBL_DATA reads of generated tables, for every SEL and IDX. -/
def Obligations.TableReadoutIsGeneratedTable : Prop :=
  ∀ (sel : BitVec 4) (idx : BitVec 8),
    (sel = 0#4 → Tables.generated.read sel idx = (sbox idx).setWidth 32) ∧
    (sel = 1#4 → Tables.generated.read sel idx = (invSbox idx).setWidth 32) ∧
    (∀ k : Fin 4, sel.toNat = 2 + k.val → Tables.generated.read sel idx = te k idx) ∧
    (∀ k : Fin 4, sel.toNat = 6 + k.val → Tables.generated.read sel idx = td k idx) ∧
    (10 ≤ sel.toNat → Tables.generated.read sel idx = 0#32)

/-- R215: TBL_GEN makes no check, and at completion fills the tables, sets TBL_VALID, and changes nothing else but the record. -/
def Obligations.TblGenFillsTables : Prop :=
  (∀ s : State, rejection .tblGen s = none) ∧
  ∀ s : State, s.phase = .exec .tblGen →
    exec .tblGen s = .next { s with
      tblValid := true, tbl := Tables.generated, progress := 0#32, err := .eNone, done := true, phase := .idle }

/-- R52, R216: a step changes a table RAM only by ending a generation, or by starting one (TBL_VALID is then 0;
that the contents are then free values is the model's choice, log entry 4). -/
def Obligations.OnlyGenerationWritesTables : Prop :=
  ∀ s t : State, step s = .next t →
    t.tbl = s.tbl ∨ t.tblValid = false ∨
      ((s.phase = .gen ∨ s.phase = .exec .tblGen) ∧ t.phase = .idle ∧ t.tblValid = true ∧ t.tbl = Tables.generated)

/-! ### Key schedule -/

/-- R254: the recurrence of the expansion, W[i] = W[i-8] ^ temp. -/
def Obligations.ScheduleRecurrence : Prop :=
  ∀ key : Vector Word 8,
    (∀ (i : Nat) (h : i < 8), (expandKey key)[i] = key[i]) ∧
    ∀ (i : Nat) (h : 8 ≤ i ∧ i < 60),
      (i % 8 = 0 → (expandKey key)[i] =
        (expandKey key)[i - 8] ^^^ subWord (rotWord (expandKey key)[i - 1]) ^^^ rconWord (i / 8)) ∧
      (i % 8 = 4 → (expandKey key)[i] = (expandKey key)[i - 8] ^^^ subWord (expandKey key)[i - 1]) ∧
      (i % 8 ≠ 0 → i % 8 ≠ 4 → (expandKey key)[i] = (expandKey key)[i - 8] ^^^ (expandKey key)[i - 1])

/-- R256: KEY_EXPAND makes no check, and at completion writes RK and KS_VALID, and nothing else but the record. -/
def Obligations.KeyExpandWritesSchedule : Prop :=
  (∀ s : State, rejection .keyExpand s = none) ∧
  ∀ s : State, s.phase = .exec .keyExpand →
    exec .keyExpand s = .next { s with
      rk := expandKey s.key, ksValid := true, progress := 0#32, err := .eNone, done := true, phase := .idle }

/-- R45: only KEY_EXPAND and reset write RK. -/
def Obligations.OnlyKeyExpandAndResetWriteRk : Prop :=
  ∀ s t : State, step s = .next t →
    t.rk = s.rk ∨ (s.phase = .exec .keyExpand ∧ t.phase = .idle ∧ t.rk = expandKey s.key) ∨
      (t.phase = .gen ∧ t.rk = Vector.replicate 60 0#32)

/-- R44: a KEY write that is not dropped clears KS_VALID and leaves RK; while KS_VALID = 0 every AES command but KEY_EXPAND rejects
with E_NO_KEY, and only a completing KEY_EXPAND sets KS_VALID again. -/
def Obligations.KeyWriteInvalidatesSchedule : Prop :=
  (∀ (s : State) (rest : List Event) (k : Fin 8) (v : Word),
    s.inputs = .bus (.write (BitVec.ofNat 17 (0x040 + 4 * k.val)) .word v) :: rest → s.phase = .idle →
      step s = .next { s with inputs := rest, response := some .okWrite, key := s.key.set k v, ksValid := false }) ∧
  (∀ s : State, s.ksValid = false →
    ∀ i ∈ [Instr.aesEncBlk, .aesDecBlk, .ecbEnc, .ecbDec, .cbcEnc, .cbcDec, .ctrXform], rejection i s = some .eNoKey) ∧
  ∀ s t : State, step s = .next t → s.ksValid = false → t.ksValid = true → s.phase = .exec .keyExpand ∧ t.phase = .idle

/-! ### Round engine -/

/-- R308: InvCipher inverts Cipher and Cipher inverts InvCipher, for every round-key file. -/
def Obligations.CipherRoundTrip : Prop :=
  ∀ (rk : RoundKeys) (b : Block), invCipher rk (cipher rk b) = b ∧ cipher rk (invCipher rk b) = b

/-- R310, R312: the table-driven forms over generated tables compute exactly Cipher and InvCipher. -/
def Obligations.TableFormEqualsCipher : Prop :=
  ∀ (rk : RoundKeys) (b : Block),
    tableCipher Tables.generated rk b = cipher rk b ∧ invTableCipher Tables.generated rk b = invCipher rk b

/-- R313 to R315: the block commands check KS_VALID alone, transform BLK in place and change nothing else but the record. -/
def Obligations.BlockCommandsTransformBlk : Prop :=
  ∀ s : State,
    (∀ i ∈ [Instr.aesEncBlk, .aesDecBlk], rejection i s = if s.ksValid then none else some .eNoKey) ∧
    (s.phase = .exec .aesEncBlk → exec .aesEncBlk s = .next { s with
      blk := wordsOfBytes (cipher s.rk (bytesOfWords s.blk)), progress := 1#32, err := .eNone, done := true,
      phase := .idle }) ∧
    (s.phase = .exec .aesDecBlk → exec .aesDecBlk s = .next { s with
      blk := wordsOfBytes (invCipher s.rk (bytesOfWords s.blk)), progress := 1#32, err := .eNone, done := true,
      phase := .idle })

/-! ### Chaining modes -/

/-- R353, R354: ECB writes each block's transform at its place in [DST, DST + LEN), and every other byte, register and flag but
the record is unchanged; in place or not. -/
def Obligations.EcbTransformsEachBlock : Prop :=
  ∀ (s : State) (i : Instr) (f : Block → Block),
    ((i = .ecbEnc ∧ f = cipher s.rk) ∨ (i = .ecbDec ∧ f = invCipher s.rk)) → Running i s →
    ∃ t, exec i s = .next t ∧
      t = { s with
        dbuf := t.dbuf, progress := BitVec.ofNat 32 (s.len.toNat / 16), err := .eNone, done := true, phase := .idle } ∧
      (∀ n, n < s.len.toNat / 16 →
        t.readBlock (s.dst.toNat + 16 * n) = f (s.readBlock (s.src.toNat + 16 * n))) ∧
      ∀ a, (a < s.dst.toNat ∨ s.dst.toNat + s.len.toNat ≤ a) → t.dbufByte a = s.dbufByte a

/-- R351, R355: CBC_ENC's block n is Cipher(P[n] ^ C[n-1]), C[-1] being IV; IV gets the last ciphertext block; nothing else but
the record changes. -/
def Obligations.CbcEncChainsCiphertext : Prop :=
  ∀ s : State, Running .cbcEnc s →
    ∃ t, exec .cbcEnc s = .next t ∧
      t = { s with
        dbuf := t.dbuf, iv := t.iv, progress := BitVec.ofNat 32 (s.len.toNat / 16), err := .eNone, done := true,
        phase := .idle } ∧
      (∀ n, n < s.len.toNat / 16 →
        t.readBlock (s.dst.toNat + 16 * n) = cipher s.rk (xorBlock (s.readBlock (s.src.toNat + 16 * n))
          (if n = 0 then bytesOfWords s.iv else t.readBlock (s.dst.toNat + 16 * (n - 1))))) ∧
      t.iv = (if s.len = 0#32 then s.iv
        else wordsOfBytes (t.readBlock (s.dst.toNat + 16 * (s.len.toNat / 16 - 1)))) ∧
      ∀ a, (a < s.dst.toNat ∨ s.dst.toNat + s.len.toNat ≤ a) → t.dbufByte a = s.dbufByte a

/-- R351, R356: CBC_DEC's block n is InvCipher(C[n]) ^ C[n-1], C[-1] being IV; IV gets the last ciphertext block; nothing else
but the record changes. -/
def Obligations.CbcDecUnchainsCiphertext : Prop :=
  ∀ s : State, Running .cbcDec s →
    ∃ t, exec .cbcDec s = .next t ∧
      t = { s with
        dbuf := t.dbuf, iv := t.iv, progress := BitVec.ofNat 32 (s.len.toNat / 16), err := .eNone, done := true,
        phase := .idle } ∧
      (∀ n, n < s.len.toNat / 16 →
        t.readBlock (s.dst.toNat + 16 * n) = xorBlock (invCipher s.rk (s.readBlock (s.src.toNat + 16 * n)))
          (if n = 0 then bytesOfWords s.iv else s.readBlock (s.src.toNat + 16 * (n - 1)))) ∧
      t.iv = (if s.len = 0#32 then s.iv
        else wordsOfBytes (s.readBlock (s.src.toNat + 16 * (s.len.toNat / 16 - 1)))) ∧
      ∀ a, (a < s.dst.toNat ∨ s.dst.toNat + s.len.toNat ≤ a) → t.dbufByte a = s.dbufByte a

/-- R357, R358: CTR_XFORM's byte k is the data byte XORed with byte k mod 16 of Cipher(IVINT + k / 16); IV gets the counter after
the last block, mod 2^128; nothing else but the record changes. -/
def Obligations.CtrXorsKeystream : Prop :=
  ∀ s : State, Running .ctrXform s →
    ∃ t, exec .ctrXform s = .next t ∧
      t = { s with
        dbuf := t.dbuf, iv := t.iv, progress := BitVec.ofNat 32 ((s.len.toNat + 15) / 16), err := .eNone, done := true,
        phase := .idle } ∧
      (∀ k, k < s.len.toNat →
        t.dbufByte (s.dst.toNat + k) = s.dbufByte (s.src.toNat + k) ^^^
          (cipher s.rk (counterBlock (ivInt s.iv + BitVec.ofNat 128 (k / 16))))[k % 16]) ∧
      ivInt t.iv = ivInt s.iv + BitVec.ofNat 128 ((s.len.toNat + 15) / 16) ∧
      ∀ a, (a < s.dst.toNat ∨ s.dst.toNat + s.len.toNat ≤ a) → t.dbufByte a = s.dbufByte a

/-- R363: decrypting in place what a mode command wrote restores the data, for ECB, CBC (same IV) and CTR (same IV). -/
def Obligations.ModesRoundTrip : Prop :=
  ∀ (s : State) (enc dec : Instr),
    (enc, dec) ∈ [(Instr.ecbEnc, Instr.ecbDec), (.cbcEnc, .cbcDec), (.ctrXform, .ctrXform)] → Running enc s →
    ∃ t u, exec enc s = .next t ∧ exec dec { t with src := s.dst, iv := s.iv, phase := .exec dec } = .next u ∧
      u.memRead s.dst.toNat s.len.toNat = s.memRead s.src.toNat s.len.toNat

/-- R360: a CBC or CTR command over L1 + L2 bytes, L1 a multiple of 16, gives the DBUF contents and the IV of two commands over
L1 and then L2 bytes (DBUF_BYTES legal, R11). -/
def Obligations.SplitCommandContinues : Prop :=
  ∀ (s : State) (i : Instr) (l1 l2 : Nat), i ∈ [Instr.cbcEnc, .cbcDec, .ctrXform] → Running i s →
    s.config.wf = true → s.len.toNat = l1 + l2 → l1 % 16 = 0 →
    ∃ t t1 t2, exec i s = .next t ∧ exec i { s with len := BitVec.ofNat 32 l1 } = .next t1 ∧
      exec i { t1 with
        src := s.src + BitVec.ofNat 32 l1, dst := s.dst + BitVec.ofNat 32 l1, len := BitVec.ofNat 32 l2,
        phase := .exec i } = .next t2 ∧
      t2.iv = t.iv ∧ ∀ a, t2.dbufByte a = t.dbufByte a

/-- R359: a mode command in place (SRC = DST) gives the same bytes and the same IV as one with a disjoint destination. -/
def Obligations.InPlaceEqualsOutOfPlace : Prop :=
  ∀ (s s' : State) (i : Instr), i ∈ [Instr.ecbEnc, .ecbDec, .cbcEnc, .cbcDec, .ctrXform] → Running i s → Running i s' →
    s.src ≠ s.dst → s'.src = s'.dst → s'.len = s.len → s'.rk = s.rk → s'.iv = s.iv →
    s'.memRead s'.src.toNat s.len.toNat = s.memRead s.src.toNat s.len.toNat →
    ∃ t t', exec i s = .next t ∧ exec i s' = .next t' ∧ t'.iv = t.iv ∧
      t'.memRead s'.dst.toNat s.len.toNat = t.memRead s.dst.toNat s.len.toNat

/-! ### SHA-256 -/

/-- R405: the shape and the length of the padding. -/
def Obligations.PaddingFillsBlocks : Prop :=
  ∀ m : List Byte,
    pad m = m ++ [0x80#8] ++ List.replicate (((55 - m.length : Int) % 64).toNat) 0x00#8 ++
        (List.range 8).map (fun k => BitVec.ofNat 8 (8 * m.length / 256 ^ (7 - k))) ∧
      (pad m).length = 64 * ((m.length + 8) / 64 + 1)

/-- The primes below 312, the first 64 of all, in order (R403, R404): the numbers from 2 up that nothing between 1 and them
divides. -/
def firstPrimes : List Nat := (List.range 312).filter fun p => decide (2 ≤ p ∧ ∀ d < p, d ∣ p → d ≤ 1)

/-- R400 to R402: the functions; R406, R407: the message schedule; R408: the round recurrence and the final addition; R403, R404:
the constants, by value and by their defining rule (`q` is the integer part of the root, `n` the root times 2^32); R409: the
iteration over blocks, which R412 uses too. -/
def Obligations.MessageScheduleRecurrence : Prop :=
  (∀ x y z : Word, shaCh x y z = (x &&& y) ^^^ (~~~x &&& z) ∧ shaMaj x y z = (x &&& y) ^^^ (x &&& z) ^^^ (y &&& z) ∧
    bigSigma0 x = x.rotateRight 2 ^^^ x.rotateRight 13 ^^^ x.rotateRight 22 ∧
    bigSigma1 x = x.rotateRight 6 ^^^ x.rotateRight 11 ^^^ x.rotateRight 25 ∧
    smallSigma0 x = x.rotateRight 7 ^^^ x.rotateRight 18 ^^^ (x >>> 3) ∧
    smallSigma1 x = x.rotateRight 17 ^^^ x.rotateRight 19 ^^^ (x >>> 10)) ∧
  (∀ b : List Byte, (shaSchedule b 48).length = 64 ∧
    (∀ t, t < 16 → (shaSchedule b 48)[t]? = some
      (wordOf (b.getD (4 * t) 0#8) (b.getD (4 * t + 1) 0#8) (b.getD (4 * t + 2) 0#8) (b.getD (4 * t + 3) 0#8))) ∧
    ∀ t, 16 ≤ t → t < 64 →
      (shaSchedule b 48).getD t 0#32 =
        smallSigma1 ((shaSchedule b 48).getD (t - 2) 0#32) + (shaSchedule b 48).getD (t - 7) 0#32 +
          smallSigma0 ((shaSchedule b 48).getD (t - 15) 0#32) + (shaSchedule b 48).getD (t - 16) 0#32) ∧
  (∀ (h : HashState) (b : List Byte), ∃ v : Nat → HashState, v 0 = h ∧
    (∀ t, t < 64 →
      let t1 := (v t)[7] + bigSigma1 (v t)[4] + shaCh (v t)[4] (v t)[5] (v t)[6] + shaK.getD t 0#32 +
        (shaSchedule b 48).getD t 0#32
      let t2 := bigSigma0 (v t)[0] + shaMaj (v t)[0] (v t)[1] (v t)[2]
      v (t + 1) = #v[t1 + t2, (v t)[0], (v t)[1], (v t)[2], (v t)[3] + t1, (v t)[4], (v t)[5], (v t)[6]]) ∧
    ∀ i : Fin 8, (shaCompress h b)[i] = h[i] + (v 64)[i]) ∧
  (shaK.length = 64 ∧
    (List.range 8).map (fun r => ((shaK.drop (8 * r)).take 8).foldl (fun n w => n * 2 ^ 32 + w.toNat) 0) =
      [0x428a2f98_71374491_b5c0fbcf_e9b5dba5_3956c25b_59f111f1_923f82a4_ab1c5ed5,
        0xd807aa98_12835b01_243185be_550c7dc3_72be5d74_80deb1fe_9bdc06a7_c19bf174,
        0xe49b69c1_efbe4786_0fc19dc6_240ca1cc_2de92c6f_4a7484aa_5cb0a9dc_76f988da,
        0x983e5152_a831c66d_b00327c8_bf597fc7_c6e00bf3_d5a79147_06ca6351_14292967,
        0x27b70a85_2e1b2138_4d2c6dfc_53380d13_650a7354_766a0abb_81c2c92e_92722c85,
        0xa2bfe8a1_a81a664b_c24b8b70_c76c51a3_d192e819_d6990624_f40e3585_106aa070,
        0x19a4c116_1e376c08_2748774c_34b0bcb5_391c0cb3_4ed8aa4a_5b9cca4f_682e6ff3,
        0x748f82ee_78a5636f_84c87814_8cc70208_90befffa_a4506ceb_bef9a3f7_c67178f2]) ∧
  (∀ t : Fin 64, ∃ q : Fin 8,
    let p := firstPrimes.getD t.val 0
    let n := q.val * 2 ^ 32 + (shaK.getD t.val 0#32).toNat
    n ^ 3 ≤ p * 2 ^ 96 ∧ p * 2 ^ 96 < (n + 1) ^ 3) ∧
  (shaH0 = #v[0x6a09e667#32, 0xbb67ae85#32, 0x3c6ef372#32, 0xa54ff53a#32, 0x510e527f#32, 0x9b05688c#32, 0x1f83d9ab#32,
    0x5be0cd19#32]) ∧
  (∀ t : Fin 8, ∃ q : Fin 8,
    let p := firstPrimes.getD t.val 0
    let n := q.val * 2 ^ 32 + shaH0[t].toNat
    n ^ 2 ≤ p * 2 ^ 64 ∧ p * 2 ^ 64 < (n + 1) ^ 2) ∧
  (∀ (block : Nat → List Byte) (n : Nat), shaBlocks block n = ((List.range n).map block).foldl shaCompress shaH0) ∧
  ∀ m : List Byte, sha256 m =
    ((List.range ((pad m).length / 64)).map fun i => ((pad m).drop (64 * i)).take 64).foldl shaCompress shaH0

/-- R411, R412: the SHA commands write DIGEST, and nothing else but the record: no DBUF byte, no AES register. -/
def Obligations.ShaCommandsWriteDigest : Prop :=
  ∀ s : State,
    (s.phase = .exec .sha256Raw → exec .sha256Raw s = .next { s with
      digest := sha256 (s.memRead s.src.toNat s.len.toNat)
      progress := BitVec.ofNat 32 ((s.len.toNat + 8) / 64 + 1), err := .eNone, done := true, phase := .idle }) ∧
    (s.phase = .exec .sha256Padded → exec .sha256Padded s = .next { s with
      digest := shaBlocks (fun i => s.memRead (s.src.toNat + 64 * i) 64) (s.len.toNat / 64)
      progress := BitVec.ofNat 32 (s.len.toNat / 64), err := .eNone, done := true, phase := .idle })

/-- R412: SHA256_PADDED over Pad(M) gives the DIGEST of SHA256_RAW over M. -/
def Obligations.PaddedHashEqualsRawHash : Prop :=
  ∀ s s' : State, s.phase = .exec .sha256Raw → s'.phase = .exec .sha256Padded →
    s'.memRead s'.src.toNat s'.len.toNat = pad (s.memRead s.src.toNat s.len.toNat) →
    ∃ t t', exec .sha256Raw s = .next t ∧ exec .sha256Padded s' = .next t' ∧ t'.digest = t.digest

/-- R48: only the SHA commands and reset write DIGEST. -/
def Obligations.OnlyShaAndResetWriteDigest : Prop :=
  ∀ s t : State, step s = .next t →
    t.digest = s.digest ∨ ((s.phase = .exec .sha256Raw ∨ s.phase = .exec .sha256Padded) ∧ t.phase = .idle) ∨
      (t.phase = .gen ∧ t.digest = Vector.replicate 8 0#32)

/-! ### The Host's bus -/

/-- R32: every register has its offset, answers there, and no offset reaches another. -/
def Obligations.RegisterMapIsExact : Prop :=
  (Reg.offset .id = 0x000 ∧ Reg.offset .version = 0x004 ∧ Reg.offset .ctrl = 0x008 ∧ Reg.offset .cmd = 0x00C ∧
    Reg.offset .status = 0x010 ∧ Reg.offset .irqEn = 0x014 ∧ Reg.offset .progress = 0x01C ∧ Reg.offset .src = 0x020 ∧
    Reg.offset .dst = 0x024 ∧ Reg.offset .len = 0x028 ∧ Reg.offset .tblAddr = 0x0A0 ∧ Reg.offset .tblData = 0x0A4 ∧
    (∀ k, Reg.offset (.key k) = 0x040 + 4 * k.val) ∧ (∀ k, Reg.offset (.iv k) = 0x060 + 4 * k.val) ∧
    (∀ k, Reg.offset (.blk k) = 0x070 + 4 * k.val) ∧ (∀ k, Reg.offset (.digest k) = 0x080 + 4 * k.val) ∧
    ∀ i, Reg.offset (.rk i) = 0x100 + 4 * i.val) ∧
  ∀ c : Config,
    (∀ r : Reg, target c (BitVec.ofNat 17 r.offset) .word = some (.reg r)) ∧
    (∀ (off : Offset) (size : Size) (r : Reg), target c off size = some (.reg r) → off.toNat = r.offset ∧ size = .word) ∧
    ∀ r r' : Reg, r.offset = r'.offset → r = r'

/-- R105, R106, R107, R503: which accesses get BUS_ERROR, and that it has no effect but the response. -/
def Obligations.BusErrorHasNoEffect : Prop :=
  ∀ (s : State) (rest : List Event) (off : Offset) (size : Size),
    ((off.toNat < 0x10000 ∧ (size ≠ .word ∨ off.toNat % 4 ≠ 0 ∨ ∀ r : Reg, r.offset ≠ off.toNat)) ∨
      (0x10000 ≤ off.toNat ∧ (off.toNat % size.bytes ≠ 0 ∨ s.config.dbufBytes < off.toNat - 0x10000 + size.bytes))) →
    (s.inputs = .bus (.read off size) :: rest →
      step s = .next { s with inputs := rest, response := some .busError }) ∧
    ∀ v, s.inputs = .bus (.write off size v) :: rest →
      step s = .next { s with inputs := rest, response := some .busError }

/-- R111: a Host read has no side effect. R32, R33, R35, R50: what an idle core answers to a register read, and what value each
register has (ID and VERSION: `IdentificationIsConstant`; STATUS: `StatusWordLayout`). That TBL_DATA of an idle core shows the
RAM entry also where TBL_VALID = 0, which R50 leaves unspecified and no run reaches, is the model's choice (log entry 14). -/
def Obligations.ReadsHaveNoSideEffect : Prop :=
  (∀ (s : State) (rest : List Event) (off : Offset) (size : Size), s.inputs = .bus (.read off size) :: rest →
    ∃ r, step s = .next { s with inputs := rest, response := some r }) ∧
  (∀ (s : State) (rest : List Event) (off : Offset) (size : Size) (r : Reg), s.phase = .idle →
    s.inputs = .bus (.read off size) :: rest → target s.config off size = some (.reg r) →
      step s = .next { s with inputs := rest, response := some (.okRead (regValue s r)) }) ∧
  ∀ s : State, regValue s .ctrl = 0#32 ∧ regValue s .cmd = s.lastCmd ∧ regValue s .status = statusWord s ∧
    regValue s .irqEn = 0#30 ++ BitVec.ofBool s.ovrIE ++ BitVec.ofBool s.doneIE ∧ regValue s .progress = s.progress ∧
    regValue s .src = s.src ∧ regValue s .dst = s.dst ∧ regValue s .len = s.len ∧
    (∀ k, regValue s (.key k) = s.key[k]) ∧ (∀ k, regValue s (.iv k) = s.iv[k]) ∧ (∀ k, regValue s (.blk k) = s.blk[k]) ∧
    (∀ k, regValue s (.digest k) = s.digest[k]) ∧ (∀ i, regValue s (.rk i) = s.rk[i]) ∧
    regValue s .tblAddr = 0#20 ++ s.tblSel ++ s.tblIdx ∧ regValue s .tblData = s.tbl.read s.tblSel s.tblIdx

/-- R37: ID and VERSION read their constants at all times, and a write to them has no effect but its OK. -/
def Obligations.IdentificationIsConstant : Prop :=
  ∀ (s : State) (rest : List Event),
    (s.inputs = .bus (.read 0x000#17 .word) :: rest →
      step s = .next { s with inputs := rest, response := some (.okRead 0x56434130#32) }) ∧
    (s.inputs = .bus (.read 0x004#17 .word) :: rest →
      step s = .next { s with inputs := rest, response := some (.okRead 0x00000007#32) }) ∧
    ∀ (v : Word) (off : Offset), off = 0x000#17 ∨ off = 0x004#17 → s.inputs = .bus (.write off .word v) :: rest →
      step s = .next { s with inputs := rest, response := some .okWrite }

/-- R110: while BUSY = 1 the volatile registers and DBUF read 0 and get OK; every other register reads its current value. -/
def Obligations.BusyReadsReturnZero : Prop :=
  ∀ (s : State) (rest : List Event) (off : Offset) (size : Size), s.busy = true →
    s.inputs = .bus (.read off size) :: rest →
    (∀ r, target s.config off size = some (.reg r) →
      step s = .next { s with
        inputs := rest
        response := some (.okRead
          (if r ∈ [Reg.tblData] ∨ (∃ k, r = .iv k) ∨ (∃ k, r = .blk k) ∨ (∃ k, r = .digest k) ∨ (∃ k, r = .rk k)
            then 0#32 else regValue s r)) }) ∧
    ∀ a, target s.config off size = some (.dbuf a) →
      step s = .next { s with inputs := rest, response := some (.okRead 0#32) }

/-- R110: so no Host read observes a result or a partial result while BUSY = 1: the response does not depend on IV, BLK, DIGEST,
RK, the tables or DBUF. -/
def Obligations.BusyReadsRevealNoResult : Prop :=
  ∀ (s s' : State) (off : Offset) (size : Size), s.busy = true →
    s' = { s with
      iv := s'.iv, blk := s'.blk, digest := s'.digest, rk := s'.rk, tbl := s'.tbl, dbuf := s'.dbuf,
      dbufDraw := s'.dbufDraw, draws := s'.draws } →
    responseOf (.read off size) s' = responseOf (.read off size) s

/-- R109: while BUSY = 1 a Host write to a locked register or to DBUF is dropped, gets OK and sets WR_IGNORED. R33, R108: at any
time a write to a read-only register gets OK and is ignored, and sets nothing. -/
def Obligations.BusyWritesAreDropped : Prop :=
  ∀ (s : State) (rest : List Event) (off : Offset) (size : Size) (v : Word),
    s.inputs = .bus (.write off size v) :: rest →
    (s.busy = true →
      ((∃ a, target s.config off size = some (.dbuf a)) ∨
        (∃ r, target s.config off size = some (.reg r) ∧
          (r ∈ [Reg.src, .dst, .len, .tblAddr] ∨ (∃ k, r = .key k) ∨ (∃ k, r = .iv k) ∨ ∃ k, r = .blk k))) →
      step s = .next { s with inputs := rest, response := some .okWrite, wrIgnored := true }) ∧
    ((∃ r, target s.config off size = some (.reg r) ∧
        (r ∈ [Reg.id, .version, .progress, .tblData] ∨ (∃ k, r = .digest k) ∨ ∃ k, r = .rk k)) →
      step s = .next { s with inputs := rest, response := some .okWrite })

/-- R33, R40 to R44, R46, R47, R49: an idle core's write to an operand or data register stores the word (TBL_ADDR: its 12
implemented bits) and changes nothing else, but that a KEY write clears KS_VALID; a read right after it answers the stored
value. -/
def Obligations.WrittenRegisterReadsBack : Prop :=
  (∀ (s : State) (rest : List Event) (v : Word), s.phase = .idle →
    let u : State := { s with inputs := rest, response := some .okWrite }
    (s.inputs = .bus (.write 0x020#17 .word v) :: rest → step s = .next { u with src := v }) ∧
    (s.inputs = .bus (.write 0x024#17 .word v) :: rest → step s = .next { u with dst := v }) ∧
    (s.inputs = .bus (.write 0x028#17 .word v) :: rest → step s = .next { u with len := v }) ∧
    (∀ k : Fin 8, s.inputs = .bus (.write (BitVec.ofNat 17 (0x040 + 4 * k.val)) .word v) :: rest →
      step s = .next { u with key := s.key.set k v, ksValid := false }) ∧
    (∀ k : Fin 4, s.inputs = .bus (.write (BitVec.ofNat 17 (0x060 + 4 * k.val)) .word v) :: rest →
      step s = .next { u with iv := s.iv.set k v }) ∧
    (∀ k : Fin 4, s.inputs = .bus (.write (BitVec.ofNat 17 (0x070 + 4 * k.val)) .word v) :: rest →
      step s = .next { u with blk := s.blk.set k v }) ∧
    (s.inputs = .bus (.write 0x0A0#17 .word v) :: rest →
      step s = .next { u with tblSel := v.extractLsb' 8 4, tblIdx := v.extractLsb' 0 8 })) ∧
  ∀ (s : State) (rest rest' : List Event) (r : Reg) (v : Word), s.phase = .idle →
    (r ∈ [Reg.src, .dst, .len, .tblAddr] ∨ (∃ k, r = .key k) ∨ (∃ k, r = .iv k) ∨ ∃ k, r = .blk k) →
    s.inputs = .bus (.write (BitVec.ofNat 17 r.offset) .word v) :: rest →
    ∃ t, step s = .next t ∧
      step { t with inputs := .bus (.read (BitVec.ofNat 17 r.offset) .word) :: rest' } =
        .next { t with
          inputs := rest', response := some (.okRead (if r = .tblAddr then v &&& 0x00000FFF#32 else v)) }

/-- R34, R36, R38, R109: writes to STATUS (write 1 to clear) and IRQ_EN take effect at any time, and a write to CTRL with bit 0 = 0
has none. -/
def Obligations.ControlWritesTakeEffect : Prop :=
  ∀ (s : State) (rest : List Event) (v : Word),
    (s.inputs = .bus (.write 0x010#17 .word v) :: rest → step s = .next { s with
      inputs := rest, response := some .okWrite, done := s.done && !v.getLsbD 1,
      cmdOverrun := s.cmdOverrun && !v.getLsbD 4, wrIgnored := s.wrIgnored && !v.getLsbD 5 }) ∧
    (s.inputs = .bus (.write 0x014#17 .word v) :: rest → step s = .next { s with
      inputs := rest, response := some .okWrite, doneIE := v.getLsbD 0, ovrIE := v.getLsbD 1 }) ∧
    (s.inputs = .bus (.write 0x008#17 .word v) :: rest → v.getLsbD 0 = false →
      step s = .next { s with inputs := rest, response := some .okWrite })

/-- R36, R505: the layout of STATUS; bits 7 and 31:12 read 0, and bit 6 is the interrupt level. -/
def Obligations.StatusWordLayout : Prop :=
  ∀ s : State, (statusWord s).getLsbD 0 = s.busy ∧ (statusWord s).getLsbD 1 = s.done ∧
    (statusWord s).getLsbD 2 = s.tblValid ∧ (statusWord s).getLsbD 3 = s.ksValid ∧
    (statusWord s).getLsbD 4 = s.cmdOverrun ∧ (statusWord s).getLsbD 5 = s.wrIgnored ∧
    (statusWord s).getLsbD 6 = ((s.done && s.doneIE) || ((s.cmdOverrun || s.wrIgnored) && s.ovrIE)) ∧
    (statusWord s).getLsbD 7 = false ∧ (statusWord s).extractLsb' 8 4 = s.err.code ∧
    (statusWord s).extractLsb' 12 20 = 0#20 ∧ (s.busy = true ↔ s.phase ≠ .idle)

/-- R103: DBUF accesses are big-endian: an idle core's write of size n stores the bytes of the data, most significant first, at
a, …, a + n - 1 and nowhere else; a read returns the integer with those bytes. That a narrow write takes
the low bits of its 32-bit datum and a narrow read is zero-extended is the model's choice (log entry 13). -/
def Obligations.DbufIsBigEndian : Prop :=
  ∀ (s : State) (rest : List Event) (a : Nat) (size : Size), s.config.wf = true → s.phase = .idle →
    a % size.bytes = 0 → a + size.bytes ≤ s.config.dbufBytes →
    (∀ v, s.inputs = .bus (.write (BitVec.ofNat 17 (0x10000 + a)) size v) :: rest →
      ∃ t, step s = .next t ∧ t = { s with inputs := rest, response := some .okWrite, dbuf := t.dbuf } ∧
        (∀ k, k < size.bytes → t.dbufByte (a + k) = (v >>> (8 * (size.bytes - 1 - k))).setWidth 8) ∧
        ∀ x, (x < a ∨ a + size.bytes ≤ x) → t.dbufByte x = s.dbufByte x) ∧
    (s.inputs = .bus (.read (BitVec.ofNat 17 (0x10000 + a)) size) :: rest →
      ∃ v : Word, step s = .next { s with inputs := rest, response := some (.okRead v) } ∧
        v.toNat < 256 ^ size.bytes ∧
        ∀ k, k < size.bytes → (v >>> (8 * (size.bytes - 1 - k))).setWidth 8 = s.dbufByte (a + k))

/-- R157: a Host program's line is its bus transaction followed by the Host's own part, which touches only the
Host. The Host as an agent is the model's choice (log entry 9). -/
def Obligations.HostLineIsItsTransaction : Prop :=
  ∀ (s : State) (rest : List Event) (t : Transaction), s.inputs = .hostLine :: rest →
    s.host.transaction s.host.current = some t →
    ∃ u, bus t { s with inputs := rest } = .next u ∧
      step s = .next { u with host := s.host.after s.host.current u.response }

/-! ### Reset -/

/-- R54: the reset values, after power-on, after a soft and after a hardware reset, whatever the state before. -/
def Obligations.ResetValues : Prop :=
  ∀ s t : State, (t = State.reset ∨ t = softReset s ∨ t = hardReset s) →
    t.phase = .gen ∧ regValue t .id = 0x56434130#32 ∧ regValue t .version = 0x00000007#32 ∧
      regValue t .status = 0x00000001#32 ∧
      ∀ r, r ≠ .id → r ≠ .version → r ≠ .status → r ≠ .tblData → regValue t r = 0#32

/-- R34, R600, R604: a CTRL write with bit 0 = 1 is a soft reset, busy or not: every register takes its reset value, the parameters
and the Host's side stay, and a DBUF byte changes only if it lies in the destination of an aborted ECB, CBC or CTR command.
That the Host's side stays is the model's choice (log entry 12). -/
def Obligations.SoftResetKeepsDbuf : Prop :=
  ∀ (s : State) (rest : List Event) (v : Word), s.inputs = .bus (.write 0x008#17 .word v) :: rest →
    v.getLsbD 0 = true →
    ∃ t, step s = .next t ∧
      t = { State.reset with
        config := s.config, tbl := t.tbl, dbuf := t.dbuf, draws := t.draws, dbufDraw := t.dbufDraw,
        response := some .okWrite, host := s.host, inputs := rest } ∧
      ∀ a, ((∀ i ∈ [Instr.ecbEnc, .ecbDec, .cbcEnc, .cbcDec, .ctrXform], s.phase ≠ .exec i) ∨ a < s.dst.toNat ∨
        s.dst.toNat + s.len.toNat ≤ a) → t.dbufByte a = s.dbufByte a

/-- R600, R605: a hardware reset sets every register to its reset value, whatever runs; only the parameters, the Host's side and the
model's own counters are not its (the model's choice, log entry 12). -/
def Obligations.HardResetResetsRegisters : Prop :=
  ∀ (s : State) (rest : List Event), s.inputs = .hardReset :: rest →
    ∃ t, step s = .next t ∧
      t = { State.reset with
        config := s.config, tbl := t.tbl, dbuf := t.dbuf, draws := t.draws, dbufDraw := t.dbufDraw,
        response := s.response, host := s.host, inputs := rest }

/-- R602: the reset-time generation ends with TBL_VALID = 1, BUSY = 0 and the phase IDLE in one step; DONE, ERR and PROGRESS do not
change. -/
def Obligations.ResetGenerationEnds : Prop :=
  ∀ (s : State) (rest : List Event), s.phase = .gen → s.inputs = .sequencer .finish :: rest →
    ∃ t, step s = .next t ∧ t.busy = false ∧
      t = { s with inputs := rest, tblValid := true, tbl := Tables.generated, phase := .idle }

/-! ### The invariant -/

/-- The invariant holds right after reset. -/
def Obligations.ResetSatisfiesInvariant : Prop := State.Inv State.reset

/-- Every step, from every state that satisfies the invariant, keeps it: DBUF stays canonical and inside DBUF_BYTES; outside a
generation the tables hold their values (R216); KS_VALID = 1 only when RK is the expansion of KEY (R36); the running command's
operands still pass its checks (R163). That a running TBL_GEN is EXEC(TBL_GEN) is log entry 6. -/
def Obligations.StepKeepsInvariant : Prop := ∀ s t : State, State.Inv s → step s = .next t → State.Inv t
end

