-- ==== Sys2Proof/Laws/Memory.lean ====
section
/-! SUPPORT. The laws of the sparse memory: a read after a write, the frame of a write, and the canonical form, which every
memory operation keeps. -/

namespace Sys2Proof.Machine

theorem Memory.read_write_same (m : Memory) (x : Nat) (v : Byte) : Memory.read (Memory.write m x v) x = some v := by
  induction m with
  | nil => simp [Memory.write, Memory.read]
  | cons p m ih =>
    obtain ⟨a, b⟩ := p
    by_cases h1 : x < a
    · simp [Memory.write, Memory.read, h1]
    · by_cases h2 : x = a
      · simp [Memory.write, Memory.read, h2]
      · simp [Memory.write, Memory.read, h1, h2, Ne.symm h2, ih]

theorem Memory.read_write_other (m : Memory) (x y : Nat) (v : Byte) (h : y ≠ x) :
    Memory.read (Memory.write m x v) y = Memory.read m y := by
  induction m with
  | nil => simp [Memory.write, Memory.read, Ne.symm h]
  | cons p m ih =>
    obtain ⟨a, b⟩ := p
    by_cases h1 : x < a
    · simp [Memory.write, Memory.read, h1, Ne.symm h]
    · by_cases h2 : x = a
      · subst h2
        simp [Memory.write, Memory.read, Ne.symm h]
      · by_cases h3 : a = y
        · subst h3
          simp [Memory.write, Memory.read, h1, h2]
        · simp [Memory.write, Memory.read, h1, h2, h3, ih]

/-- The bytes written read back; every other address reads as before. -/
theorem Memory.read_writeBytes (m : Memory) (x : Nat) (bs : List Byte) (y : Nat) :
    Memory.read (Memory.writeBytes m x bs) y =
      if x ≤ y ∧ y < x + bs.length then bs[y - x]? else Memory.read m y := by
  induction bs generalizing m x with
  | nil =>
    rw [if_neg (by simp only [List.length_nil]; omega)]
    rfl
  | cons v vs ih =>
    rw [Memory.writeBytes, ih, List.length_cons]
    by_cases h1 : x + 1 ≤ y ∧ y < x + 1 + vs.length
    · have h2 : x ≤ y ∧ y < x + (vs.length + 1) := by omega
      rw [if_pos h1, if_pos h2]
      obtain ⟨k, rfl⟩ : ∃ k, y = x + 1 + k := ⟨y - (x + 1), by omega⟩
      have e1 : x + 1 + k - (x + 1) = k := by omega
      have e2 : x + 1 + k - x = k + 1 := by omega
      rw [e1, e2, List.getElem?_cons_succ]
    · rw [if_neg h1]
      by_cases h3 : y = x
      · subst h3
        rw [if_pos (by omega), Memory.read_write_same]
        simp
      · rw [if_neg (by omega), Memory.read_write_other _ _ _ _ h3]

/-- Writing a byte touches no address but its own. -/
theorem Memory.mem_write {m : Memory} {x : Nat} {v : Byte} {c : Host.Cell} (h : c ∈ Memory.write m x v) :
    c = (x, v) ∨ c ∈ m := by
  induction m with
  | nil => simpa [Memory.write] using h
  | cons p m ih =>
    obtain ⟨a, b⟩ := p
    unfold Memory.write at h
    split at h
    · simpa using h
    · split at h
      · rename_i _ h2
        subst h2
        rcases List.mem_cons.1 h with h | h
        · exact .inl h
        · exact .inr (List.mem_cons_of_mem _ h)
      · rcases List.mem_cons.1 h with h | h
        · exact .inr (h ▸ List.mem_cons_self)
        · exact (ih h).imp id (List.mem_cons_of_mem _)

theorem Memory.mem_writeBytes {m : Memory} {x : Nat} {bs : List Byte} {c : Host.Cell}
    (h : c ∈ Memory.writeBytes m x bs) : (x ≤ c.1 ∧ c.1 < x + bs.length) ∨ c ∈ m := by
  induction bs generalizing m x with
  | nil => exact .inr h
  | cons v vs ih =>
    rcases ih h with h | h
    · exact .inl ⟨by omega, by simp only [List.length_cons]; omega⟩
    · rcases Memory.mem_write h with h | h
      · subst h
        exact .inl ⟨Nat.le_refl _, by simp⟩
      · exact .inr h

theorem Memory.write_wf {m : Memory} (h : Memory.wf m) (x : Nat) (v : Byte) : Memory.wf (Memory.write m x v) := by
  induction m with
  | nil => simp [Memory.write]
  | cons p m ih =>
    obtain ⟨a, b⟩ := p
    have ⟨ha, hm⟩ := List.pairwise_cons.1 h
    unfold Memory.write
    split
    · rename_i h1
      refine List.pairwise_cons.2 ⟨fun c hc => ?_, h⟩
      rcases List.mem_cons.1 hc with hc | hc
      · exact hc ▸ h1
      · exact Nat.lt_trans h1 (ha c hc)
    · split
      · exact List.pairwise_cons.2 ⟨ha, hm⟩
      · refine List.pairwise_cons.2 ⟨fun c hc => ?_, ih hm⟩
        rcases Memory.mem_write hc with hc | hc
        · subst hc
          show a < x
          omega
        · exact ha c hc

theorem Memory.writeBytes_wf {m : Memory} (h : Memory.wf m) (x : Nat) (bs : List Byte) :
    Memory.wf (Memory.writeBytes m x bs) := by
  induction bs generalizing m x with
  | nil => exact h
  | cons v vs ih => exact ih (Memory.write_wf h x v) (x + 1)

/-- The DBUF that a soft reset leaves is canonical. -/
theorem abortedDbuf_wf {s : State} (h : Memory.wf s.dbuf) : Memory.wf (abortedDbuf s) := by
  unfold abortedDbuf
  split
  · exact h
  · exact h
  · split
    · exact Memory.writeBytes_wf h _ _
    · exact h

theorem State.reset_dbuf_wf : Memory.wf State.reset.dbuf := List.Pairwise.nil

theorem softReset_dbuf_wf {s : State} (h : Memory.wf s.dbuf) : Memory.wf (softReset s).dbuf := abortedDbuf_wf h

theorem hardReset_dbuf_wf (s : State) : Memory.wf (hardReset s).dbuf := List.Pairwise.nil

theorem State.memWrite_wf {s : State} (h : Memory.wf s.dbuf) (a : Nat) (bs : List Byte) :
    Memory.wf (s.memWrite a bs).dbuf := Memory.writeBytes_wf h a bs

/-- DBUF after a `MemWrite`: the written bytes inside, every other byte as before. -/
theorem State.dbufByte_memWrite (s : State) (a : Nat) (bs : List Byte) (y : Nat) :
    (s.memWrite a bs).dbufByte y =
      if h : a ≤ y ∧ y < a + bs.length then bs[y - a]'(by omega) else s.dbufByte y := by
  unfold State.dbufByte State.memWrite
  simp only [Memory.read_writeBytes]
  split
  · rw [List.getElem?_eq_getElem (by omega)]
    rfl
  · rfl

/-- DBUF after writing a 16-byte block. -/
theorem State.dbufByte_writeBlock (s : State) (a : Nat) (b : Block) (y : Nat) :
    (s.writeBlock a b).dbufByte y = if h : a ≤ y ∧ y < a + 16 then b[y - a]'(by omega) else s.dbufByte y := by
  unfold State.writeBlock
  rw [State.dbufByte_memWrite]
  simp only [Vector.length_toList, Vector.getElem_toList]

end Sys2Proof.Machine
end

