-- ==== Sys2Proof/Laws/State.lean ====
section
/-! SUPPORT. One lemma per field and per named update of the state, each true by rfl, so that no later proof unfolds a record
update. The updates that only set one record (writeStatus, writeIrqEn, writeTblAddr, the resets) unfold by their own name. -/

namespace Sys2Proof.Machine

/-! ### overrun -/

@[simp] theorem overrun_config (s : State) : (overrun s).config = s.config := rfl
@[simp] theorem overrun_lastCmd (s : State) : (overrun s).lastCmd = s.lastCmd := rfl
@[simp] theorem overrun_done (s : State) : (overrun s).done = s.done := rfl
@[simp] theorem overrun_tblValid (s : State) : (overrun s).tblValid = s.tblValid := rfl
@[simp] theorem overrun_ksValid (s : State) : (overrun s).ksValid = s.ksValid := rfl
@[simp] theorem overrun_cmdOverrun (s : State) : (overrun s).cmdOverrun = true := rfl
@[simp] theorem overrun_wrIgnored (s : State) : (overrun s).wrIgnored = s.wrIgnored := rfl
@[simp] theorem overrun_err (s : State) : (overrun s).err = s.err := rfl
@[simp] theorem overrun_doneIE (s : State) : (overrun s).doneIE = s.doneIE := rfl
@[simp] theorem overrun_ovrIE (s : State) : (overrun s).ovrIE = s.ovrIE := rfl
@[simp] theorem overrun_progress (s : State) : (overrun s).progress = s.progress := rfl
@[simp] theorem overrun_src (s : State) : (overrun s).src = s.src := rfl
@[simp] theorem overrun_dst (s : State) : (overrun s).dst = s.dst := rfl
@[simp] theorem overrun_len (s : State) : (overrun s).len = s.len := rfl
@[simp] theorem overrun_key (s : State) : (overrun s).key = s.key := rfl
@[simp] theorem overrun_iv (s : State) : (overrun s).iv = s.iv := rfl
@[simp] theorem overrun_blk (s : State) : (overrun s).blk = s.blk := rfl
@[simp] theorem overrun_digest (s : State) : (overrun s).digest = s.digest := rfl
@[simp] theorem overrun_rk (s : State) : (overrun s).rk = s.rk := rfl
@[simp] theorem overrun_tblSel (s : State) : (overrun s).tblSel = s.tblSel := rfl
@[simp] theorem overrun_tblIdx (s : State) : (overrun s).tblIdx = s.tblIdx := rfl
@[simp] theorem overrun_tbl (s : State) : (overrun s).tbl = s.tbl := rfl
@[simp] theorem overrun_dbuf (s : State) : (overrun s).dbuf = s.dbuf := rfl
@[simp] theorem overrun_phase (s : State) : (overrun s).phase = s.phase := rfl
@[simp] theorem overrun_draws (s : State) : (overrun s).draws = s.draws := rfl
@[simp] theorem overrun_dbufDraw (s : State) : (overrun s).dbufDraw = s.dbufDraw := rfl
@[simp] theorem overrun_response (s : State) : (overrun s).response = s.response := rfl
@[simp] theorem overrun_host (s : State) : (overrun s).host = s.host := rfl
@[simp] theorem overrun_inputs (s : State) : (overrun s).inputs = s.inputs := rfl

/-! ### dropWrite -/

@[simp] theorem dropWrite_config (s : State) : (dropWrite s).config = s.config := rfl
@[simp] theorem dropWrite_lastCmd (s : State) : (dropWrite s).lastCmd = s.lastCmd := rfl
@[simp] theorem dropWrite_done (s : State) : (dropWrite s).done = s.done := rfl
@[simp] theorem dropWrite_tblValid (s : State) : (dropWrite s).tblValid = s.tblValid := rfl
@[simp] theorem dropWrite_ksValid (s : State) : (dropWrite s).ksValid = s.ksValid := rfl
@[simp] theorem dropWrite_cmdOverrun (s : State) : (dropWrite s).cmdOverrun = s.cmdOverrun := rfl
@[simp] theorem dropWrite_wrIgnored (s : State) : (dropWrite s).wrIgnored = true := rfl
@[simp] theorem dropWrite_err (s : State) : (dropWrite s).err = s.err := rfl
@[simp] theorem dropWrite_doneIE (s : State) : (dropWrite s).doneIE = s.doneIE := rfl
@[simp] theorem dropWrite_ovrIE (s : State) : (dropWrite s).ovrIE = s.ovrIE := rfl
@[simp] theorem dropWrite_progress (s : State) : (dropWrite s).progress = s.progress := rfl
@[simp] theorem dropWrite_src (s : State) : (dropWrite s).src = s.src := rfl
@[simp] theorem dropWrite_dst (s : State) : (dropWrite s).dst = s.dst := rfl
@[simp] theorem dropWrite_len (s : State) : (dropWrite s).len = s.len := rfl
@[simp] theorem dropWrite_key (s : State) : (dropWrite s).key = s.key := rfl
@[simp] theorem dropWrite_iv (s : State) : (dropWrite s).iv = s.iv := rfl
@[simp] theorem dropWrite_blk (s : State) : (dropWrite s).blk = s.blk := rfl
@[simp] theorem dropWrite_digest (s : State) : (dropWrite s).digest = s.digest := rfl
@[simp] theorem dropWrite_rk (s : State) : (dropWrite s).rk = s.rk := rfl
@[simp] theorem dropWrite_tblSel (s : State) : (dropWrite s).tblSel = s.tblSel := rfl
@[simp] theorem dropWrite_tblIdx (s : State) : (dropWrite s).tblIdx = s.tblIdx := rfl
@[simp] theorem dropWrite_tbl (s : State) : (dropWrite s).tbl = s.tbl := rfl
@[simp] theorem dropWrite_dbuf (s : State) : (dropWrite s).dbuf = s.dbuf := rfl
@[simp] theorem dropWrite_phase (s : State) : (dropWrite s).phase = s.phase := rfl
@[simp] theorem dropWrite_draws (s : State) : (dropWrite s).draws = s.draws := rfl
@[simp] theorem dropWrite_dbufDraw (s : State) : (dropWrite s).dbufDraw = s.dbufDraw := rfl
@[simp] theorem dropWrite_response (s : State) : (dropWrite s).response = s.response := rfl
@[simp] theorem dropWrite_host (s : State) : (dropWrite s).host = s.host := rfl
@[simp] theorem dropWrite_inputs (s : State) : (dropWrite s).inputs = s.inputs := rfl

/-! ### reject -/

@[simp] theorem reject_config (v : Word) (e : ErrCode) (s : State) : (reject v e s).config = s.config := rfl
@[simp] theorem reject_lastCmd (v : Word) (e : ErrCode) (s : State) : (reject v e s).lastCmd = v := rfl
@[simp] theorem reject_done (v : Word) (e : ErrCode) (s : State) : (reject v e s).done = true := rfl
@[simp] theorem reject_tblValid (v : Word) (e : ErrCode) (s : State) : (reject v e s).tblValid = s.tblValid := rfl
@[simp] theorem reject_ksValid (v : Word) (e : ErrCode) (s : State) : (reject v e s).ksValid = s.ksValid := rfl
@[simp] theorem reject_cmdOverrun (v : Word) (e : ErrCode) (s : State) : (reject v e s).cmdOverrun = s.cmdOverrun := rfl
@[simp] theorem reject_wrIgnored (v : Word) (e : ErrCode) (s : State) : (reject v e s).wrIgnored = s.wrIgnored := rfl
@[simp] theorem reject_err (v : Word) (e : ErrCode) (s : State) : (reject v e s).err = e := rfl
@[simp] theorem reject_doneIE (v : Word) (e : ErrCode) (s : State) : (reject v e s).doneIE = s.doneIE := rfl
@[simp] theorem reject_ovrIE (v : Word) (e : ErrCode) (s : State) : (reject v e s).ovrIE = s.ovrIE := rfl
@[simp] theorem reject_progress (v : Word) (e : ErrCode) (s : State) : (reject v e s).progress = 0#32 := rfl
@[simp] theorem reject_src (v : Word) (e : ErrCode) (s : State) : (reject v e s).src = s.src := rfl
@[simp] theorem reject_dst (v : Word) (e : ErrCode) (s : State) : (reject v e s).dst = s.dst := rfl
@[simp] theorem reject_len (v : Word) (e : ErrCode) (s : State) : (reject v e s).len = s.len := rfl
@[simp] theorem reject_key (v : Word) (e : ErrCode) (s : State) : (reject v e s).key = s.key := rfl
@[simp] theorem reject_iv (v : Word) (e : ErrCode) (s : State) : (reject v e s).iv = s.iv := rfl
@[simp] theorem reject_blk (v : Word) (e : ErrCode) (s : State) : (reject v e s).blk = s.blk := rfl
@[simp] theorem reject_digest (v : Word) (e : ErrCode) (s : State) : (reject v e s).digest = s.digest := rfl
@[simp] theorem reject_rk (v : Word) (e : ErrCode) (s : State) : (reject v e s).rk = s.rk := rfl
@[simp] theorem reject_tblSel (v : Word) (e : ErrCode) (s : State) : (reject v e s).tblSel = s.tblSel := rfl
@[simp] theorem reject_tblIdx (v : Word) (e : ErrCode) (s : State) : (reject v e s).tblIdx = s.tblIdx := rfl
@[simp] theorem reject_tbl (v : Word) (e : ErrCode) (s : State) : (reject v e s).tbl = s.tbl := rfl
@[simp] theorem reject_dbuf (v : Word) (e : ErrCode) (s : State) : (reject v e s).dbuf = s.dbuf := rfl
@[simp] theorem reject_phase (v : Word) (e : ErrCode) (s : State) : (reject v e s).phase = s.phase := rfl
@[simp] theorem reject_draws (v : Word) (e : ErrCode) (s : State) : (reject v e s).draws = s.draws := rfl
@[simp] theorem reject_dbufDraw (v : Word) (e : ErrCode) (s : State) : (reject v e s).dbufDraw = s.dbufDraw := rfl
@[simp] theorem reject_response (v : Word) (e : ErrCode) (s : State) : (reject v e s).response = s.response := rfl
@[simp] theorem reject_host (v : Word) (e : ErrCode) (s : State) : (reject v e s).host = s.host := rfl
@[simp] theorem reject_inputs (v : Word) (e : ErrCode) (s : State) : (reject v e s).inputs = s.inputs := rfl

/-! ### accept -/

@[simp] theorem accept_config (i : Instr) (s : State) : (accept i s).config = s.config := rfl
@[simp] theorem accept_lastCmd (i : Instr) (s : State) : (accept i s).lastCmd = encode i := rfl
@[simp] theorem accept_done (i : Instr) (s : State) : (accept i s).done = false := rfl
@[simp] theorem accept_tblValid (i : Instr) (s : State) : (accept i s).tblValid = s.tblValid := rfl
@[simp] theorem accept_ksValid (i : Instr) (s : State) : (accept i s).ksValid = s.ksValid := rfl
@[simp] theorem accept_cmdOverrun (i : Instr) (s : State) : (accept i s).cmdOverrun = s.cmdOverrun := rfl
@[simp] theorem accept_wrIgnored (i : Instr) (s : State) : (accept i s).wrIgnored = s.wrIgnored := rfl
@[simp] theorem accept_err (i : Instr) (s : State) : (accept i s).err = .eNone := rfl
@[simp] theorem accept_doneIE (i : Instr) (s : State) : (accept i s).doneIE = s.doneIE := rfl
@[simp] theorem accept_ovrIE (i : Instr) (s : State) : (accept i s).ovrIE = s.ovrIE := rfl
@[simp] theorem accept_progress (i : Instr) (s : State) : (accept i s).progress = 0#32 := rfl
@[simp] theorem accept_src (i : Instr) (s : State) : (accept i s).src = s.src := rfl
@[simp] theorem accept_dst (i : Instr) (s : State) : (accept i s).dst = s.dst := rfl
@[simp] theorem accept_len (i : Instr) (s : State) : (accept i s).len = s.len := rfl
@[simp] theorem accept_key (i : Instr) (s : State) : (accept i s).key = s.key := rfl
@[simp] theorem accept_iv (i : Instr) (s : State) : (accept i s).iv = s.iv := rfl
@[simp] theorem accept_blk (i : Instr) (s : State) : (accept i s).blk = s.blk := rfl
@[simp] theorem accept_digest (i : Instr) (s : State) : (accept i s).digest = s.digest := rfl
@[simp] theorem accept_rk (i : Instr) (s : State) : (accept i s).rk = s.rk := rfl
@[simp] theorem accept_tblSel (i : Instr) (s : State) : (accept i s).tblSel = s.tblSel := rfl
@[simp] theorem accept_tblIdx (i : Instr) (s : State) : (accept i s).tblIdx = s.tblIdx := rfl
@[simp] theorem accept_tbl (i : Instr) (s : State) : (accept i s).tbl = s.tbl := rfl
@[simp] theorem accept_dbuf (i : Instr) (s : State) : (accept i s).dbuf = s.dbuf := rfl
@[simp] theorem accept_phase (i : Instr) (s : State) : (accept i s).phase = .exec i := rfl
@[simp] theorem accept_draws (i : Instr) (s : State) : (accept i s).draws = s.draws := rfl
@[simp] theorem accept_dbufDraw (i : Instr) (s : State) : (accept i s).dbufDraw = s.dbufDraw := rfl
@[simp] theorem accept_response (i : Instr) (s : State) : (accept i s).response = s.response := rfl
@[simp] theorem accept_host (i : Instr) (s : State) : (accept i s).host = s.host := rfl
@[simp] theorem accept_inputs (i : Instr) (s : State) : (accept i s).inputs = s.inputs := rfl

/-! ### complete -/

@[simp] theorem complete_config (n : Nat) (s : State) : (complete n s).config = s.config := rfl
@[simp] theorem complete_lastCmd (n : Nat) (s : State) : (complete n s).lastCmd = s.lastCmd := rfl
@[simp] theorem complete_done (n : Nat) (s : State) : (complete n s).done = true := rfl
@[simp] theorem complete_tblValid (n : Nat) (s : State) : (complete n s).tblValid = s.tblValid := rfl
@[simp] theorem complete_ksValid (n : Nat) (s : State) : (complete n s).ksValid = s.ksValid := rfl
@[simp] theorem complete_cmdOverrun (n : Nat) (s : State) : (complete n s).cmdOverrun = s.cmdOverrun := rfl
@[simp] theorem complete_wrIgnored (n : Nat) (s : State) : (complete n s).wrIgnored = s.wrIgnored := rfl
@[simp] theorem complete_err (n : Nat) (s : State) : (complete n s).err = .eNone := rfl
@[simp] theorem complete_doneIE (n : Nat) (s : State) : (complete n s).doneIE = s.doneIE := rfl
@[simp] theorem complete_ovrIE (n : Nat) (s : State) : (complete n s).ovrIE = s.ovrIE := rfl
@[simp] theorem complete_progress (n : Nat) (s : State) : (complete n s).progress = BitVec.ofNat 32 n := rfl
@[simp] theorem complete_src (n : Nat) (s : State) : (complete n s).src = s.src := rfl
@[simp] theorem complete_dst (n : Nat) (s : State) : (complete n s).dst = s.dst := rfl
@[simp] theorem complete_len (n : Nat) (s : State) : (complete n s).len = s.len := rfl
@[simp] theorem complete_key (n : Nat) (s : State) : (complete n s).key = s.key := rfl
@[simp] theorem complete_iv (n : Nat) (s : State) : (complete n s).iv = s.iv := rfl
@[simp] theorem complete_blk (n : Nat) (s : State) : (complete n s).blk = s.blk := rfl
@[simp] theorem complete_digest (n : Nat) (s : State) : (complete n s).digest = s.digest := rfl
@[simp] theorem complete_rk (n : Nat) (s : State) : (complete n s).rk = s.rk := rfl
@[simp] theorem complete_tblSel (n : Nat) (s : State) : (complete n s).tblSel = s.tblSel := rfl
@[simp] theorem complete_tblIdx (n : Nat) (s : State) : (complete n s).tblIdx = s.tblIdx := rfl
@[simp] theorem complete_tbl (n : Nat) (s : State) : (complete n s).tbl = s.tbl := rfl
@[simp] theorem complete_dbuf (n : Nat) (s : State) : (complete n s).dbuf = s.dbuf := rfl
@[simp] theorem complete_phase (n : Nat) (s : State) : (complete n s).phase = .idle := rfl
@[simp] theorem complete_draws (n : Nat) (s : State) : (complete n s).draws = s.draws := rfl
@[simp] theorem complete_dbufDraw (n : Nat) (s : State) : (complete n s).dbufDraw = s.dbufDraw := rfl
@[simp] theorem complete_response (n : Nat) (s : State) : (complete n s).response = s.response := rfl
@[simp] theorem complete_host (n : Nat) (s : State) : (complete n s).host = s.host := rfl
@[simp] theorem complete_inputs (n : Nat) (s : State) : (complete n s).inputs = s.inputs := rfl

/-! ### memWrite -/

@[simp] theorem memWrite_config (s : State) (a : Nat) (bs : List Byte) : (s.memWrite a bs).config = s.config := rfl
@[simp] theorem memWrite_lastCmd (s : State) (a : Nat) (bs : List Byte) : (s.memWrite a bs).lastCmd = s.lastCmd := rfl
@[simp] theorem memWrite_done (s : State) (a : Nat) (bs : List Byte) : (s.memWrite a bs).done = s.done := rfl
@[simp] theorem memWrite_tblValid (s : State) (a : Nat) (bs : List Byte) : (s.memWrite a bs).tblValid = s.tblValid := rfl
@[simp] theorem memWrite_ksValid (s : State) (a : Nat) (bs : List Byte) : (s.memWrite a bs).ksValid = s.ksValid := rfl
@[simp] theorem memWrite_cmdOverrun (s : State) (a : Nat) (bs : List Byte) : (s.memWrite a bs).cmdOverrun = s.cmdOverrun := rfl
@[simp] theorem memWrite_wrIgnored (s : State) (a : Nat) (bs : List Byte) : (s.memWrite a bs).wrIgnored = s.wrIgnored := rfl
@[simp] theorem memWrite_err (s : State) (a : Nat) (bs : List Byte) : (s.memWrite a bs).err = s.err := rfl
@[simp] theorem memWrite_doneIE (s : State) (a : Nat) (bs : List Byte) : (s.memWrite a bs).doneIE = s.doneIE := rfl
@[simp] theorem memWrite_ovrIE (s : State) (a : Nat) (bs : List Byte) : (s.memWrite a bs).ovrIE = s.ovrIE := rfl
@[simp] theorem memWrite_progress (s : State) (a : Nat) (bs : List Byte) : (s.memWrite a bs).progress = s.progress := rfl
@[simp] theorem memWrite_src (s : State) (a : Nat) (bs : List Byte) : (s.memWrite a bs).src = s.src := rfl
@[simp] theorem memWrite_dst (s : State) (a : Nat) (bs : List Byte) : (s.memWrite a bs).dst = s.dst := rfl
@[simp] theorem memWrite_len (s : State) (a : Nat) (bs : List Byte) : (s.memWrite a bs).len = s.len := rfl
@[simp] theorem memWrite_key (s : State) (a : Nat) (bs : List Byte) : (s.memWrite a bs).key = s.key := rfl
@[simp] theorem memWrite_iv (s : State) (a : Nat) (bs : List Byte) : (s.memWrite a bs).iv = s.iv := rfl
@[simp] theorem memWrite_blk (s : State) (a : Nat) (bs : List Byte) : (s.memWrite a bs).blk = s.blk := rfl
@[simp] theorem memWrite_digest (s : State) (a : Nat) (bs : List Byte) : (s.memWrite a bs).digest = s.digest := rfl
@[simp] theorem memWrite_rk (s : State) (a : Nat) (bs : List Byte) : (s.memWrite a bs).rk = s.rk := rfl
@[simp] theorem memWrite_tblSel (s : State) (a : Nat) (bs : List Byte) : (s.memWrite a bs).tblSel = s.tblSel := rfl
@[simp] theorem memWrite_tblIdx (s : State) (a : Nat) (bs : List Byte) : (s.memWrite a bs).tblIdx = s.tblIdx := rfl
@[simp] theorem memWrite_tbl (s : State) (a : Nat) (bs : List Byte) : (s.memWrite a bs).tbl = s.tbl := rfl
@[simp] theorem memWrite_dbuf (s : State) (a : Nat) (bs : List Byte) : (s.memWrite a bs).dbuf = Memory.writeBytes s.dbuf a bs := rfl
@[simp] theorem memWrite_phase (s : State) (a : Nat) (bs : List Byte) : (s.memWrite a bs).phase = s.phase := rfl
@[simp] theorem memWrite_draws (s : State) (a : Nat) (bs : List Byte) : (s.memWrite a bs).draws = s.draws := rfl
@[simp] theorem memWrite_dbufDraw (s : State) (a : Nat) (bs : List Byte) : (s.memWrite a bs).dbufDraw = s.dbufDraw := rfl
@[simp] theorem memWrite_response (s : State) (a : Nat) (bs : List Byte) : (s.memWrite a bs).response = s.response := rfl
@[simp] theorem memWrite_host (s : State) (a : Nat) (bs : List Byte) : (s.memWrite a bs).host = s.host := rfl
@[simp] theorem memWrite_inputs (s : State) (a : Nat) (bs : List Byte) : (s.memWrite a bs).inputs = s.inputs := rfl

/-! ### writeBlock -/

@[simp] theorem writeBlock_config (s : State) (a : Nat) (b : Block) : (s.writeBlock a b).config = s.config := rfl
@[simp] theorem writeBlock_lastCmd (s : State) (a : Nat) (b : Block) : (s.writeBlock a b).lastCmd = s.lastCmd := rfl
@[simp] theorem writeBlock_done (s : State) (a : Nat) (b : Block) : (s.writeBlock a b).done = s.done := rfl
@[simp] theorem writeBlock_tblValid (s : State) (a : Nat) (b : Block) : (s.writeBlock a b).tblValid = s.tblValid := rfl
@[simp] theorem writeBlock_ksValid (s : State) (a : Nat) (b : Block) : (s.writeBlock a b).ksValid = s.ksValid := rfl
@[simp] theorem writeBlock_cmdOverrun (s : State) (a : Nat) (b : Block) : (s.writeBlock a b).cmdOverrun = s.cmdOverrun := rfl
@[simp] theorem writeBlock_wrIgnored (s : State) (a : Nat) (b : Block) : (s.writeBlock a b).wrIgnored = s.wrIgnored := rfl
@[simp] theorem writeBlock_err (s : State) (a : Nat) (b : Block) : (s.writeBlock a b).err = s.err := rfl
@[simp] theorem writeBlock_doneIE (s : State) (a : Nat) (b : Block) : (s.writeBlock a b).doneIE = s.doneIE := rfl
@[simp] theorem writeBlock_ovrIE (s : State) (a : Nat) (b : Block) : (s.writeBlock a b).ovrIE = s.ovrIE := rfl
@[simp] theorem writeBlock_progress (s : State) (a : Nat) (b : Block) : (s.writeBlock a b).progress = s.progress := rfl
@[simp] theorem writeBlock_src (s : State) (a : Nat) (b : Block) : (s.writeBlock a b).src = s.src := rfl
@[simp] theorem writeBlock_dst (s : State) (a : Nat) (b : Block) : (s.writeBlock a b).dst = s.dst := rfl
@[simp] theorem writeBlock_len (s : State) (a : Nat) (b : Block) : (s.writeBlock a b).len = s.len := rfl
@[simp] theorem writeBlock_key (s : State) (a : Nat) (b : Block) : (s.writeBlock a b).key = s.key := rfl
@[simp] theorem writeBlock_iv (s : State) (a : Nat) (b : Block) : (s.writeBlock a b).iv = s.iv := rfl
@[simp] theorem writeBlock_blk (s : State) (a : Nat) (b : Block) : (s.writeBlock a b).blk = s.blk := rfl
@[simp] theorem writeBlock_digest (s : State) (a : Nat) (b : Block) : (s.writeBlock a b).digest = s.digest := rfl
@[simp] theorem writeBlock_rk (s : State) (a : Nat) (b : Block) : (s.writeBlock a b).rk = s.rk := rfl
@[simp] theorem writeBlock_tblSel (s : State) (a : Nat) (b : Block) : (s.writeBlock a b).tblSel = s.tblSel := rfl
@[simp] theorem writeBlock_tblIdx (s : State) (a : Nat) (b : Block) : (s.writeBlock a b).tblIdx = s.tblIdx := rfl
@[simp] theorem writeBlock_tbl (s : State) (a : Nat) (b : Block) : (s.writeBlock a b).tbl = s.tbl := rfl
@[simp] theorem writeBlock_dbuf (s : State) (a : Nat) (b : Block) : (s.writeBlock a b).dbuf = Memory.writeBytes s.dbuf a b.toList := rfl
@[simp] theorem writeBlock_phase (s : State) (a : Nat) (b : Block) : (s.writeBlock a b).phase = s.phase := rfl
@[simp] theorem writeBlock_draws (s : State) (a : Nat) (b : Block) : (s.writeBlock a b).draws = s.draws := rfl
@[simp] theorem writeBlock_dbufDraw (s : State) (a : Nat) (b : Block) : (s.writeBlock a b).dbufDraw = s.dbufDraw := rfl
@[simp] theorem writeBlock_response (s : State) (a : Nat) (b : Block) : (s.writeBlock a b).response = s.response := rfl
@[simp] theorem writeBlock_host (s : State) (a : Nat) (b : Block) : (s.writeBlock a b).host = s.host := rfl
@[simp] theorem writeBlock_inputs (s : State) (a : Nat) (b : Block) : (s.writeBlock a b).inputs = s.inputs := rfl

/-! ### startTblGen -/

@[simp] theorem startTblGen_config (s : State) : (startTblGen s).config = s.config := rfl
@[simp] theorem startTblGen_lastCmd (s : State) : (startTblGen s).lastCmd = s.lastCmd := rfl
@[simp] theorem startTblGen_done (s : State) : (startTblGen s).done = s.done := rfl
@[simp] theorem startTblGen_tblValid (s : State) : (startTblGen s).tblValid = false := rfl
@[simp] theorem startTblGen_ksValid (s : State) : (startTblGen s).ksValid = s.ksValid := rfl
@[simp] theorem startTblGen_cmdOverrun (s : State) : (startTblGen s).cmdOverrun = s.cmdOverrun := rfl
@[simp] theorem startTblGen_wrIgnored (s : State) : (startTblGen s).wrIgnored = s.wrIgnored := rfl
@[simp] theorem startTblGen_err (s : State) : (startTblGen s).err = s.err := rfl
@[simp] theorem startTblGen_doneIE (s : State) : (startTblGen s).doneIE = s.doneIE := rfl
@[simp] theorem startTblGen_ovrIE (s : State) : (startTblGen s).ovrIE = s.ovrIE := rfl
@[simp] theorem startTblGen_progress (s : State) : (startTblGen s).progress = s.progress := rfl
@[simp] theorem startTblGen_src (s : State) : (startTblGen s).src = s.src := rfl
@[simp] theorem startTblGen_dst (s : State) : (startTblGen s).dst = s.dst := rfl
@[simp] theorem startTblGen_len (s : State) : (startTblGen s).len = s.len := rfl
@[simp] theorem startTblGen_key (s : State) : (startTblGen s).key = s.key := rfl
@[simp] theorem startTblGen_iv (s : State) : (startTblGen s).iv = s.iv := rfl
@[simp] theorem startTblGen_blk (s : State) : (startTblGen s).blk = s.blk := rfl
@[simp] theorem startTblGen_digest (s : State) : (startTblGen s).digest = s.digest := rfl
@[simp] theorem startTblGen_rk (s : State) : (startTblGen s).rk = s.rk := rfl
@[simp] theorem startTblGen_tblSel (s : State) : (startTblGen s).tblSel = s.tblSel := rfl
@[simp] theorem startTblGen_tblIdx (s : State) : (startTblGen s).tblIdx = s.tblIdx := rfl
@[simp] theorem startTblGen_tbl (s : State) : (startTblGen s).tbl = Tables.unspecified s.draws := rfl
@[simp] theorem startTblGen_dbuf (s : State) : (startTblGen s).dbuf = s.dbuf := rfl
@[simp] theorem startTblGen_phase (s : State) : (startTblGen s).phase = s.phase := rfl
@[simp] theorem startTblGen_draws (s : State) : (startTblGen s).draws = s.draws + 1 := rfl
@[simp] theorem startTblGen_dbufDraw (s : State) : (startTblGen s).dbufDraw = s.dbufDraw := rfl
@[simp] theorem startTblGen_response (s : State) : (startTblGen s).response = s.response := rfl
@[simp] theorem startTblGen_host (s : State) : (startTblGen s).host = s.host := rfl
@[simp] theorem startTblGen_inputs (s : State) : (startTblGen s).inputs = s.inputs := rfl

/-! ### fillTables -/

@[simp] theorem fillTables_config (s : State) : (fillTables s).config = s.config := rfl
@[simp] theorem fillTables_lastCmd (s : State) : (fillTables s).lastCmd = s.lastCmd := rfl
@[simp] theorem fillTables_done (s : State) : (fillTables s).done = s.done := rfl
@[simp] theorem fillTables_tblValid (s : State) : (fillTables s).tblValid = true := rfl
@[simp] theorem fillTables_ksValid (s : State) : (fillTables s).ksValid = s.ksValid := rfl
@[simp] theorem fillTables_cmdOverrun (s : State) : (fillTables s).cmdOverrun = s.cmdOverrun := rfl
@[simp] theorem fillTables_wrIgnored (s : State) : (fillTables s).wrIgnored = s.wrIgnored := rfl
@[simp] theorem fillTables_err (s : State) : (fillTables s).err = s.err := rfl
@[simp] theorem fillTables_doneIE (s : State) : (fillTables s).doneIE = s.doneIE := rfl
@[simp] theorem fillTables_ovrIE (s : State) : (fillTables s).ovrIE = s.ovrIE := rfl
@[simp] theorem fillTables_progress (s : State) : (fillTables s).progress = s.progress := rfl
@[simp] theorem fillTables_src (s : State) : (fillTables s).src = s.src := rfl
@[simp] theorem fillTables_dst (s : State) : (fillTables s).dst = s.dst := rfl
@[simp] theorem fillTables_len (s : State) : (fillTables s).len = s.len := rfl
@[simp] theorem fillTables_key (s : State) : (fillTables s).key = s.key := rfl
@[simp] theorem fillTables_iv (s : State) : (fillTables s).iv = s.iv := rfl
@[simp] theorem fillTables_blk (s : State) : (fillTables s).blk = s.blk := rfl
@[simp] theorem fillTables_digest (s : State) : (fillTables s).digest = s.digest := rfl
@[simp] theorem fillTables_rk (s : State) : (fillTables s).rk = s.rk := rfl
@[simp] theorem fillTables_tblSel (s : State) : (fillTables s).tblSel = s.tblSel := rfl
@[simp] theorem fillTables_tblIdx (s : State) : (fillTables s).tblIdx = s.tblIdx := rfl
@[simp] theorem fillTables_tbl (s : State) : (fillTables s).tbl = Tables.generated := rfl
@[simp] theorem fillTables_dbuf (s : State) : (fillTables s).dbuf = s.dbuf := rfl
@[simp] theorem fillTables_phase (s : State) : (fillTables s).phase = s.phase := rfl
@[simp] theorem fillTables_draws (s : State) : (fillTables s).draws = s.draws := rfl
@[simp] theorem fillTables_dbufDraw (s : State) : (fillTables s).dbufDraw = s.dbufDraw := rfl
@[simp] theorem fillTables_response (s : State) : (fillTables s).response = s.response := rfl
@[simp] theorem fillTables_host (s : State) : (fillTables s).host = s.host := rfl
@[simp] theorem fillTables_inputs (s : State) : (fillTables s).inputs = s.inputs := rfl

/-! ### writeKey -/

@[simp] theorem writeKey_config (k : Fin 8) (v : Word) (s : State) : (writeKey k v s).config = s.config := rfl
@[simp] theorem writeKey_lastCmd (k : Fin 8) (v : Word) (s : State) : (writeKey k v s).lastCmd = s.lastCmd := rfl
@[simp] theorem writeKey_done (k : Fin 8) (v : Word) (s : State) : (writeKey k v s).done = s.done := rfl
@[simp] theorem writeKey_tblValid (k : Fin 8) (v : Word) (s : State) : (writeKey k v s).tblValid = s.tblValid := rfl
@[simp] theorem writeKey_ksValid (k : Fin 8) (v : Word) (s : State) : (writeKey k v s).ksValid = false := rfl
@[simp] theorem writeKey_cmdOverrun (k : Fin 8) (v : Word) (s : State) : (writeKey k v s).cmdOverrun = s.cmdOverrun := rfl
@[simp] theorem writeKey_wrIgnored (k : Fin 8) (v : Word) (s : State) : (writeKey k v s).wrIgnored = s.wrIgnored := rfl
@[simp] theorem writeKey_err (k : Fin 8) (v : Word) (s : State) : (writeKey k v s).err = s.err := rfl
@[simp] theorem writeKey_doneIE (k : Fin 8) (v : Word) (s : State) : (writeKey k v s).doneIE = s.doneIE := rfl
@[simp] theorem writeKey_ovrIE (k : Fin 8) (v : Word) (s : State) : (writeKey k v s).ovrIE = s.ovrIE := rfl
@[simp] theorem writeKey_progress (k : Fin 8) (v : Word) (s : State) : (writeKey k v s).progress = s.progress := rfl
@[simp] theorem writeKey_src (k : Fin 8) (v : Word) (s : State) : (writeKey k v s).src = s.src := rfl
@[simp] theorem writeKey_dst (k : Fin 8) (v : Word) (s : State) : (writeKey k v s).dst = s.dst := rfl
@[simp] theorem writeKey_len (k : Fin 8) (v : Word) (s : State) : (writeKey k v s).len = s.len := rfl
@[simp] theorem writeKey_key (k : Fin 8) (v : Word) (s : State) : (writeKey k v s).key = s.key.set k v := rfl
@[simp] theorem writeKey_iv (k : Fin 8) (v : Word) (s : State) : (writeKey k v s).iv = s.iv := rfl
@[simp] theorem writeKey_blk (k : Fin 8) (v : Word) (s : State) : (writeKey k v s).blk = s.blk := rfl
@[simp] theorem writeKey_digest (k : Fin 8) (v : Word) (s : State) : (writeKey k v s).digest = s.digest := rfl
@[simp] theorem writeKey_rk (k : Fin 8) (v : Word) (s : State) : (writeKey k v s).rk = s.rk := rfl
@[simp] theorem writeKey_tblSel (k : Fin 8) (v : Word) (s : State) : (writeKey k v s).tblSel = s.tblSel := rfl
@[simp] theorem writeKey_tblIdx (k : Fin 8) (v : Word) (s : State) : (writeKey k v s).tblIdx = s.tblIdx := rfl
@[simp] theorem writeKey_tbl (k : Fin 8) (v : Word) (s : State) : (writeKey k v s).tbl = s.tbl := rfl
@[simp] theorem writeKey_dbuf (k : Fin 8) (v : Word) (s : State) : (writeKey k v s).dbuf = s.dbuf := rfl
@[simp] theorem writeKey_phase (k : Fin 8) (v : Word) (s : State) : (writeKey k v s).phase = s.phase := rfl
@[simp] theorem writeKey_draws (k : Fin 8) (v : Word) (s : State) : (writeKey k v s).draws = s.draws := rfl
@[simp] theorem writeKey_dbufDraw (k : Fin 8) (v : Word) (s : State) : (writeKey k v s).dbufDraw = s.dbufDraw := rfl
@[simp] theorem writeKey_response (k : Fin 8) (v : Word) (s : State) : (writeKey k v s).response = s.response := rfl
@[simp] theorem writeKey_host (k : Fin 8) (v : Word) (s : State) : (writeKey k v s).host = s.host := rfl
@[simp] theorem writeKey_inputs (k : Fin 8) (v : Word) (s : State) : (writeKey k v s).inputs = s.inputs := rfl

end Sys2Proof.Machine
end

