-- ==== Sys2Proof/Laws/Ops.lean ====
section
/-! SUPPORT. What each shared operation can do, said once: provers cite these instead of unfolding the operation. -/

namespace Sys2Proof.Machine

/-- What each command writes at acceptance beyond the record. -/
def startOf : Instr → State → State
  | .tblGen => startTblGen
  | .keyExpand | .aesEncBlk | .aesDecBlk | .ecbEnc | .ecbDec | .cbcEnc | .cbcDec | .ctrXform | .sha256Raw
  | .sha256Padded => noStart

/-- What each command writes at completion beyond the record. -/
def effectOf : Instr → State → State
  | .tblGen => fillTables
  | .keyExpand => keyExpandEffect
  | .aesEncBlk => aesEncBlkEffect
  | .aesDecBlk => aesDecBlkEffect
  | .ecbEnc => ecbEncEffect
  | .ecbDec => ecbDecEffect
  | .cbcEnc => cbcEncEffect
  | .cbcDec => cbcDecEffect
  | .ctrXform => ctrXformEffect
  | .sha256Raw => sha256RawEffect
  | .sha256Padded => sha256PaddedEffect

/-- Every meaning is the shared command operation at its own start and effect. -/
theorem exec_eq_command (i : Instr) (s : State) : exec i s = command i (startOf i) (effectOf i) s := by
  cases i <;> rfl

theorem busy_iff (s : State) : s.busy = true ↔ s.phase ≠ .idle := by
  unfold State.busy
  cases s.phase <;> simp

theorem not_busy_iff (s : State) : s.busy = false ↔ s.phase = .idle := by
  unfold State.busy
  cases s.phase <;> simp

/-- The four things a command can do. -/
theorem command_cases (i : Instr) (start effect : State → State) (s : State) :
    (s.phase = .idle ∧ ∃ e, rejection i s = some e ∧ command i start effect s = .next (reject (encode i) e s)) ∨
    (s.phase = .idle ∧ rejection i s = none ∧ command i start effect s = .next (accept i (start s))) ∨
    (s.phase = .exec i ∧ command i start effect s = .next (complete (blockCount i s) (effect s))) ∨
    (s.phase ≠ .idle ∧ s.phase ≠ .exec i ∧ command i start effect s = .next (overrun s)) := by
  unfold command
  split
  · rename_i h
    split
    · rename_i e he
      exact .inl ⟨h, e, he, rfl⟩
    · rename_i he
      exact .inr (.inl ⟨h, he, rfl⟩)
  · rename_i j h
    by_cases hj : j = i
    · subst hj
      exact .inr (.inr (.inl ⟨h, if_pos rfl⟩))
    · exact .inr (.inr (.inr ⟨by simp [h], by simp [h, hj], if_neg hj⟩))
  · rename_i h
    exact .inr (.inr (.inr ⟨by simp [h], by simp [h], rfl⟩))

/-- The running command completes. -/
theorem exec_running {i : Instr} {s : State} (h : s.phase = .exec i) :
    exec i s = .next (complete (blockCount i s) (effectOf i s)) := by
  rw [exec_eq_command]
  simp only [command, h]
  simp

/-- An idle core accepts a command whose checks pass. -/
theorem exec_accepted {i : Instr} {s : State} (h : s.phase = .idle) (hr : rejection i s = none) :
    exec i s = .next (accept i (startOf i s)) := by
  rw [exec_eq_command]
  simp only [command, h, hr]

/-- An idle core rejects a command by its first failing check. -/
theorem exec_rejected {i : Instr} {s : State} {e : ErrCode} (h : s.phase = .idle) (hr : rejection i s = some e) :
    exec i s = .next (reject (encode i) e s) := by
  rw [exec_eq_command]
  simp only [command, h, hr]

/-- The three things a CMD write can do (R160). -/
theorem issue_cases (v : Word) (s : State) :
    (s.busy = true ∧ issue v s = .next (overrun s)) ∨
    (s.busy = false ∧ (∃ e, decode v = .error e) ∧ issue v s = .next (reject v .eOpcode s)) ∨
    (s.busy = false ∧ ∃ i, decode v = .ok i ∧ issue v s = exec i s) := by
  unfold issue
  cases hb : s.busy
  · cases hd : decode v with
    | error e => exact .inr (.inl ⟨rfl, ⟨e, rfl⟩, by simp⟩)
    | ok i => exact .inr (.inr ⟨rfl, i, rfl, by simp⟩)
  · exact .inl ⟨rfl, by simp⟩

/-- A read changes only the response (R111). -/
theorem bus_read (off : Offset) (size : Size) (s : State) :
    bus (.read off size) s = .next { s with response := some (responseOf (.read off size) s) } := rfl

/-- What a bus write can do: nothing (BUS_ERROR), a DBUF write, a CMD write, or a write to another register. -/
theorem bus_write_cases (off : Offset) (size : Size) (v : Word) (s : State) :
    (target s.config off size = none ∧
      bus (.write off size v) s = .next { s with response := some .busError }) ∨
    (∃ a, target s.config off size = some (.dbuf a) ∧
      bus (.write off size v) s = .next (writeDbuf a size v { s with response := some .okWrite })) ∨
    (target s.config off size = some (.reg .cmd) ∧
      bus (.write off size v) s = issue v { s with response := some .okWrite }) ∨
    (∃ r, r ≠ .cmd ∧ target s.config off size = some (.reg r) ∧
      bus (.write off size v) s = .next (if r.isLocked && s.busy then dropWrite { s with response := some .okWrite }
        else writePlainReg r v { s with response := some .okWrite })) := by
  unfold bus responseOf
  cases ht : target s.config off size with
  | none => exact .inl ⟨rfl, by simp [ht]⟩
  | some g =>
    cases g with
    | dbuf a => exact .inr (.inl ⟨a, rfl, by simp [ht]⟩)
    | reg r =>
      by_cases hr : r = .cmd
      · subst hr
        exact .inr (.inr (.inl ⟨rfl, by simp [ht, writeReg]⟩))
      · refine .inr (.inr (.inr ⟨r, hr, rfl, ?_⟩))
        simp only [ht, writeReg, if_neg hr]
        have hb : State.busy { s with response := some Response.okWrite } = s.busy := rfl
        rw [hb]
        split <;> rfl

/-- What a Sequencer step can do. -/
theorem sequencer_cases (a : SeqStep) (s : State) :
    sequencer a s = .next s ∨
    (s.phase = .gen ∧ a = .finish ∧ sequencer a s = .next (finishGeneration s)) ∨
    (∃ i, s.phase = .exec i ∧ a = .block ∧ sequencer a s = .next (advance i s)) ∨
    (∃ i, s.phase = .exec i ∧ a = .finish ∧ sequencer a s = .next (complete (blockCount i s) (effectOf i s))) := by
  unfold sequencer
  cases hp : s.phase with
  | idle => exact .inl rfl
  | gen =>
    cases a with
    | work => exact .inl rfl
    | block => exact .inl rfl
    | finish => exact .inr (.inl ⟨rfl, rfl, rfl⟩)
  | exec i =>
    cases a with
    | work => exact .inl rfl
    | block => exact .inr (.inr (.inl ⟨i, rfl, rfl, rfl⟩))
    | finish => exact .inr (.inr (.inr ⟨i, rfl, rfl, exec_running hp⟩))

/-- The counter after `n` blocks (R357). -/
theorem ctrRun_counter (s : State) (n : Nat) : (ctrRun s n).2 = ivInt s.iv + BitVec.ofNat 128 n := by
  induction n with
  | zero => simp [ctrRun]
  | succ n ih =>
    show (ctrRun s n).2 + 1 = _
    rw [ih, BitVec.add_assoc]
    congr 1
    apply BitVec.eq_of_toNat_eq
    simp

/-- Every command's effect writes at most DBUF, IV, BLK, DIGEST, RK, KS_VALID, TBL_VALID and the tables (R155). -/
theorem effectOf_frame (i : Instr) (s : State) :
    effectOf i s =
      { s with
        dbuf := (effectOf i s).dbuf, iv := (effectOf i s).iv, blk := (effectOf i s).blk
        digest := (effectOf i s).digest, rk := (effectOf i s).rk, ksValid := (effectOf i s).ksValid
        tblValid := (effectOf i s).tblValid, tbl := (effectOf i s).tbl } := by
  cases i <;> rfl

/-- A command's checks depend on DBUF_BYTES, KS_VALID, SRC, DST and LEN alone (R169 to R173). -/
theorem rejection_congr (i : Instr) {s t : State} (hc : t.config = s.config) (hk : t.ksValid = s.ksValid)
    (hs : t.src = s.src) (hd : t.dst = s.dst) (hl : t.len = s.len) : rejection i t = rejection i s := by
  cases s
  cases t
  simp only at hc hk hs hd hl
  subst hc hk hs hd hl
  cases i <;> rfl

/-- A command's block count depends on LEN alone. -/
theorem blockCount_congr (i : Instr) {s t : State} (hl : t.len = s.len) : blockCount i t = blockCount i s := by
  cases i <;> simp [blockCount, hl]

/-- When no check is reported, every listed check passes (R166). -/
theorem passes_of_firstFailure {c : Check} {cs : List Check} {s : State} (h : firstFailure cs s = none) (hc : c ∈ cs) :
    c.fails s = false := by
  induction cs with
  | nil => cases hc
  | cons d ds ih =>
    unfold firstFailure at h
    split at h
    · cases h
    · rename_i hd
      rcases List.mem_cons.1 hc with rfl | hc
      · simpa using hd
      · exact ih h hc

/-- The destination of a command whose checks pass lies inside DBUF (R170). -/
theorem dst_inside {i : Instr} {s : State} (hw : writesDbuf i = true) (hr : rejection i s = none) :
    s.dst.toNat + s.len.toNat ≤ s.config.dbufBytes := by
  have hm : Check.inRange .dst ∈ checksOf i := by
    cases i <;> first
      | (cases hw; done)
      | decide
  exact Nat.le_of_not_lt (of_decide_eq_false (passes_of_firstFailure hr hm))

end Sys2Proof.Machine
end

