-- ==== Sys2Proof/Laws/PerInstr.lean ====
section
/-! SUPPORT. Facts about every command as syntax, one lemma per constructor. -/

namespace Sys2Proof.Laws.CommandWord

/-- The block number that OP[7:4] names (R152). -/
def blockNumber : Instr → Nat
  | .tblGen => 0
  | .keyExpand => 1
  | .aesEncBlk | .aesDecBlk => 2
  | .ecbEnc | .ecbDec | .cbcEnc | .cbcDec | .ctrXform => 3
  | .sha256Raw | .sha256Padded => 4

/-- The command is well formed, its word passes both checks, and OP[7:4] names its block (R150, R151, R152). -/
def Statement (i : Instr) : Prop :=
  i.wf = true ∧ commandWordWf (encode i) = true ∧ (encode i).toNat / 16 = blockNumber i

theorem tblGen : Statement .tblGen := ⟨rfl, by decide, by decide⟩
theorem keyExpand : Statement .keyExpand := ⟨rfl, by decide, by decide⟩
theorem aesEncBlk : Statement .aesEncBlk := ⟨rfl, by decide, by decide⟩
theorem aesDecBlk : Statement .aesDecBlk := ⟨rfl, by decide, by decide⟩
theorem ecbEnc : Statement .ecbEnc := ⟨rfl, by decide, by decide⟩
theorem ecbDec : Statement .ecbDec := ⟨rfl, by decide, by decide⟩
theorem cbcEnc : Statement .cbcEnc := ⟨rfl, by decide, by decide⟩
theorem cbcDec : Statement .cbcDec := ⟨rfl, by decide, by decide⟩
theorem ctrXform : Statement .ctrXform := ⟨rfl, by decide, by decide⟩
theorem sha256Raw : Statement .sha256Raw := ⟨rfl, by decide, by decide⟩
theorem sha256Padded : Statement .sha256Padded := ⟨rfl, by decide, by decide⟩

end Sys2Proof.Laws.CommandWord
end

