-- ==== Sys2Proof/Laws/Step.lean ====
section
/-! SUPPORT. What one step can do, said once: `step_cases` lists the changes a step can make, each with the condition it happens
under; claims about every step go through it. -/

namespace Sys2Proof.Machine

/-- The changes a turn can make to a state whose turn and response have been recorded. -/
inductive Change (s : State) : State → Prop where
  /-- Nothing: a read, a BUS_ERROR, an unseen Sequencer step, a Host line without a transaction. -/
  | nothing : Change s s
  | rejected (v : Word) (e : ErrCode) : s.phase = .idle → Change s (reject v e s)
  | accepted (i : Instr) : s.phase = .idle → rejection i s = none → Change s (accept i (startOf i s))
  | completed (i : Instr) : s.phase = .exec i → Change s (complete (blockCount i s) (effectOf i s))
  | overran : s.busy = true → Change s (overrun s)
  | dropped : s.busy = true → Change s (dropWrite s)
  /-- A register write that is not dropped; a CTRL write may be a soft reset. -/
  | register (r : Reg) (v : Word) : r ≠ .cmd → (r.isLocked = true → s.busy = false) → Change s (writePlainReg r v s)
  | buffer (a : Nat) (size : Size) (v : Word) :
    s.busy = false → a + size.bytes ≤ s.config.dbufBytes → Change s (s.memWrite a (beBytes size.bytes v))
  | generated : s.phase = .gen → Change s (finishGeneration s)
  | advanced (i : Instr) : s.phase = .exec i → Change s (advance i s)
  | powered : Change s (hardReset s)

/-- A DBUF target lies inside DBUF_BYTES (R102, R106). -/
theorem target_dbuf_inside {c : Config} {off : Offset} {size : Size} {a : Nat}
    (h : target c off size = some (.dbuf a)) : a + size.bytes ≤ c.dbufBytes := by
  unfold target at h
  by_cases h1 : off.toNat < 0x10000
  · rw [if_pos h1] at h
    by_cases h2 : size = .word ∧ off.toNat % 4 = 0
    · rw [if_pos h2] at h
      obtain ⟨r, _, hr⟩ := Option.map_eq_some_iff.1 h
      cases hr
    · rw [if_neg h2] at h
      cases h
  · rw [if_neg h1] at h
    by_cases h2 : (off.toNat - 0x10000) % size.bytes = 0 ∧ off.toNat - 0x10000 + size.bytes ≤ c.dbufBytes
    · rw [if_pos h2] at h
      injection h with h
      injection h with h
      rw [← h]
      exact h2.2
    · rw [if_neg h2] at h
      cases h

/-- What `exec` can do. -/
theorem exec_change (i : Instr) (s : State) : ∃ t, exec i s = .next t ∧ Change s t := by
  rw [exec_eq_command]
  rcases command_cases i (startOf i) (effectOf i) s with ⟨h, e, _, h'⟩ | ⟨h, hr, h'⟩ | ⟨h, h'⟩ | ⟨h, _, h'⟩
  · exact ⟨_, h', .rejected _ e h⟩
  · exact ⟨_, h', .accepted i h hr⟩
  · exact ⟨_, h', .completed i h⟩
  · exact ⟨_, h', .overran ((busy_iff s).2 h)⟩

/-- What a bus transaction can do once its response is recorded. -/
theorem bus_change (t : Transaction) (s : State) :
    ∃ u, bus t s = .next u ∧ Change { s with response := some (responseOf t s) } u := by
  cases t with
  | read off size => exact ⟨_, rfl, .nothing⟩
  | write off size v =>
    have hresp : ∀ g, target s.config off size = some g → responseOf (.write off size v) s = .okWrite := by
      intro g hg
      simp [responseOf, hg]
    rcases bus_write_cases off size v s with ⟨ht, h⟩ | ⟨a, ht, h⟩ | ⟨ht, h⟩ | ⟨r, hr, ht, h⟩
    · refine ⟨_, h, ?_⟩
      have e : responseOf (.write off size v) s = .busError := by simp [responseOf, ht]
      rw [e]
      exact .nothing
    · refine ⟨_, h, ?_⟩
      rw [hresp _ ht]
      unfold writeDbuf
      split
      · rename_i hb
        exact .dropped hb
      · rename_i hb
        exact .buffer a size v (by simpa using hb) (target_dbuf_inside ht)
    · rw [hresp _ ht, h]
      rcases issue_cases v { s with response := some .okWrite } with ⟨hb, h'⟩ | ⟨hb, _, h'⟩ | ⟨_, i, _, h'⟩
      · exact ⟨_, h', .overran hb⟩
      · exact ⟨_, h', .rejected v .eOpcode ((not_busy_iff _).1 hb)⟩
      · rw [h']
        exact exec_change i _
    · refine ⟨_, h, ?_⟩
      rw [hresp _ ht]
      split
      · rename_i hb
        exact .dropped (Bool.and_eq_true_iff.1 hb).2
      · rename_i hb
        refine .register r v hr fun hl => ?_
        have hb' : ¬ s.busy = true := fun hb2 => hb (by rw [hl, hb2]; rfl)
        exact Bool.eq_false_iff.2 hb'

/-- What a Sequencer turn can do. -/
theorem sequencer_change (a : SeqStep) (s : State) : ∃ u, sequencer a s = .next u ∧ Change s u := by
  rcases sequencer_cases a s with h | ⟨hp, _, h⟩ | ⟨i, hp, _, h⟩ | ⟨i, hp, _, h⟩
  · exact ⟨_, h, .nothing⟩
  · exact ⟨_, h, .generated hp⟩
  · exact ⟨_, h, .advanced i hp⟩
  · exact ⟨_, h, .completed i hp⟩

/-- What a turn can do: the response and the Host's own side aside, one `Change`. -/
theorem turn_change (e : Event) (s : State) :
    ∃ (resp : Option Response) (host : HostAgent) (u : State),
      turn e s = .next { u with host := host } ∧ Change { s with response := resp } u := by
  cases e with
  | bus t =>
    obtain ⟨u, h, hc⟩ := bus_change t s
    exact ⟨_, u.host, u, h, hc⟩
  | hostLine =>
    simp only [turn, hostLine]
    split
    · exact ⟨s.response, _, s, rfl, .nothing⟩
    · rename_i t _
      obtain ⟨u, h, hc⟩ := bus_change t s
      rw [h]
      exact ⟨_, _, u, rfl, hc⟩
  | sequencer a =>
    obtain ⟨u, h, hc⟩ := sequencer_change a s
    exact ⟨s.response, u.host, u, h, hc⟩
  | hardReset => exact ⟨s.response, (hardReset s).host, hardReset s, rfl, .powered⟩

/-- What a step can do: a turn is taken off the list, a response may be recorded, one `Change` happens, the Host's side may move. -/
theorem step_cases {s t : State} (h : step s = .next t) :
    ∃ (rest : List Event) (resp : Option Response) (host : HostAgent) (u : State),
      t = { u with host := host } ∧ Change { s with inputs := rest, response := resp } u := by
  unfold step at h
  split at h
  · obtain ⟨resp, host, u, h', hc⟩ := turn_change (defaultEvent s) s
    rw [h'] at h
    cases h
    exact ⟨s.inputs, resp, host, u, rfl, hc⟩
  · rename_i e rest _
    obtain ⟨resp, host, u, h', hc⟩ := turn_change e { s with inputs := rest }
    rw [h'] at h
    cases h
    exact ⟨rest, resp, host, u, rfl, hc⟩

end Sys2Proof.Machine
end

