-- ==== Sys2Proof/Tests/Slice0.lean ====
section
/-! SUPPORT. Tests with expected results from the spec (the rule, or the row of 95_test_vectors.md, stands in the docstring), and
for every obligation with hypotheses a witness that its hypotheses can be met. -/

namespace Sys2Proof.Tests

set_option Elab.async false

open Sys2Proof Sys2Proof.Machine

/-! ### Helpers -/

/-- The state of an outcome. -/
def after (o : Host.Outcome State Fault Refusal) : State :=
  match o with
  | .next t => t
  | .fault _ => State.reset
  | .refused _ => State.reset

/-- The state after the given turns. -/
def play (es : List Event) (s : State) : State := es.foldl (fun t e => after (turn e t)) s

/-- An idle core, its tables generated. -/
def idle : State := { State.reset with phase := .idle, tblValid := true, tbl := Tables.generated }

/-- An idle core with the given operands and a valid key schedule. -/
def keyed (src dst len : Nat) : State :=
  { idle with
    ksValid := true, rk := expandKey State.reset.key, src := BitVec.ofNat 32 src, dst := BitVec.ofNat 32 dst
    len := BitVec.ofNat 32 len }

/-- A running command with the given operands. -/
def busyWith (i : Instr) (src dst len : Nat) : State := { keyed src dst len with phase := .exec i, lastCmd := encode i }

/-- A 32-bit write turn. -/
def w32 (off : Nat) (v : Word) : Event := .bus (.write (BitVec.ofNat 17 off) .word v)

/-- A 32-bit read turn. -/
def r32 (off : Nat) : Event := .bus (.read (BitVec.ofNat 17 off) .word)

/-! ### Decoding: R151's words, written out bit by bit (RSVD, then OP) -/

theorem test_decode_tblGen : decode 0b00000000000000000000000000000001#32 = .ok .tblGen := by decide
theorem test_decode_keyExpand : decode 0b00000000000000000000000000010000#32 = .ok .keyExpand := by decide
theorem test_decode_aesEncBlk : decode 0b00000000000000000000000000100000#32 = .ok .aesEncBlk := by decide
theorem test_decode_aesDecBlk : decode 0b00000000000000000000000000100001#32 = .ok .aesDecBlk := by decide
theorem test_decode_ecbEnc : decode 0b00000000000000000000000000110000#32 = .ok .ecbEnc := by decide
theorem test_decode_ecbDec : decode 0b00000000000000000000000000110001#32 = .ok .ecbDec := by decide
theorem test_decode_cbcEnc : decode 0b00000000000000000000000000110010#32 = .ok .cbcEnc := by decide
theorem test_decode_cbcDec : decode 0b00000000000000000000000000110011#32 = .ok .cbcDec := by decide
theorem test_decode_ctrXform : decode 0b00000000000000000000000000110100#32 = .ok .ctrXform := by decide
theorem test_decode_sha256Raw : decode 0b00000000000000000000000001000000#32 = .ok .sha256Raw := by decide
theorem test_decode_sha256Padded : decode 0b00000000000000000000000001000001#32 = .ok .sha256Padded := by decide

/-- R153's unassigned opcodes at the ends of its ranges. -/
theorem test_decode_unassigned :
    [0x00#32, 0x02#32, 0x0F#32, 0x11#32, 0x1F#32, 0x22#32, 0x2F#32, 0x35#32, 0x3F#32, 0x42#32, 0xFF#32].map decode =
      List.replicate 11 (.error .opUnassigned) := rfl

/-- R153: RSVD not 0, at both ends of the field (row PR3). -/
theorem test_decode_rsvd :
    decode 0x00000110#32 = .error .rsvdNotZero ∧ decode 0x80000001#32 = .error .rsvdNotZero := by decide

/-- The opcode table's numbering is the word's own. -/
theorem test_decodeTableWord : decodeTableWord 32 0x34 = some .ctrXform ∧ decodeTableWord 8 0x134 = some .ctrXform := by
  decide

/-! ### WellFormed: one ill-formed term for each check -/

theorem smoke_wf_good : Config.wf Config.default = true ∧ Config.wf ⟨64, 0⟩ = true ∧ Config.wf ⟨65536, 0⟩ = true := by
  decide +kernel
theorem smoke_wf_not_multiple : Config.wf ⟨4100, 0⟩ = false := by decide
theorem smoke_wf_too_small : Config.wf ⟨0, 0⟩ = false := by decide
theorem smoke_wf_too_large : Config.wf ⟨65600, 0⟩ = false := by decide +kernel
theorem smoke_wf_rsvd : rsvdClear 0x00000110#32 = false ∧ commandWordWf 0x00000110#32 = false := by decide
theorem smoke_wf_op : opAssigned 0x00000022#32 = false ∧ commandWordWf 0x00000022#32 = false := by decide
theorem smoke_wf_instr : ∀ i ∈ [Instr.tblGen, .ctrXform, .sha256Padded], i.wf = true := by decide

/-! ### Galois field, S-box, tables -/

/-- R201, R202's examples. -/
theorem test_gmul :
    xtime 0x57#8 = 0xAE#8 ∧ xtime 0xAE#8 = 0x47#8 ∧ gmul 0x57#8 0x83#8 = 0xC1#8 ∧ gmul 0x57#8 0x13#8 = 0xFE#8 := by
  decide +kernel

/-- R203, R204's examples. -/
theorem test_ginv : ginv 0x01#8 = 0x01#8 ∧ ginv 0x53#8 = 0xCA#8 ∧ ginv 0xFF#8 = 0x1C#8 ∧ affine 0xCA#8 = 0xED#8 := by
  decide +kernel

/-- TBL_GEN, then the readouts of rows TR2, TR5 and TR9 (SBOX, TE0, TD3), each through its own TBL_ADDR write. -/
theorem test_tblGen_readout :
    let t := after (exec .tblGen (busyWith .tblGen 0 0 0))
    (play [w32 0x0A0 0x00000053#32, r32 0x0A4] t).response = some (.okRead 0x000000ED#32) ∧
      (play [w32 0x0A0 0x00000253#32, r32 0x0A4] t).response = some (.okRead 0xC1EDED2C#32) ∧
      (play [w32 0x0A0 0x00000953#32, r32 0x0A4] t).response = some (.okRead 0xE6BD464D#32) := by
  decide +kernel

/-- Rows TR11 and TR12: SEL 15 reads 0, TBL_ADDR's bits 31:12 are reserved. -/
theorem test_tblAddr_reserved :
    (play [w32 0x0A0 0x00000F53#32, r32 0x0A4] idle).response = some (.okRead 0#32) ∧
      (play [w32 0x0A0 0x12345253#32, r32 0x0A0] idle).response = some (.okRead 0x00000253#32) := by
  decide +kernel

/-! ### Key schedule -/

/-- R256's example: the first derived word and the last. -/
theorem test_keyExpand :
    let s := { busyWith .keyExpand 0 0 0 with
      ksValid := false
      key := #v[0x603deb10#32, 0x15ca71be#32, 0x2b73aef0#32, 0x857d7781#32, 0x1f352c07#32, 0x3b6108d7#32, 0x2d9810a3#32,
        0x0914dff4#32] }
    (after (exec .keyExpand s)).rk[8] = 0x9BA35411#32 ∧ (after (exec .keyExpand s)).rk[59] = 0x706C631E#32 ∧
      (after (exec .keyExpand s)).ksValid = true := by
  decide +kernel

/-! ### Round engine and modes

One block of FIPS-197 Appendix C.3 (R314's example) is the known answer of every AES test below: ECB of the block, CBC with
IV = 0 (R355: the first block then equals its ECB encryption), CTR of zero data (R363: the raw keystream). -/

/-- The key of R314's example. -/
def fipsKey : Vector Word 8 :=
  #v[0x00010203#32, 0x04050607#32, 0x08090a0b#32, 0x0c0d0e0f#32, 0x10111213#32, 0x14151617#32, 0x18191a1b#32, 0x1c1d1e1f#32]

/-- The plaintext of R314's example. -/
def fipsPlain : Vector Word 4 := #v[0x00112233#32, 0x44556677#32, 0x8899aabb#32, 0xccddeeff#32]

/-- The ciphertext of R314's example. -/
def fipsCipher : Vector Word 4 := #v[0x8ea2b7ca#32, 0x516745bf#32, 0xeafc4990#32, 0x4b496089#32]

/-- A running AES command at SRC = 0, DST = 16, LEN = 16 with the key of R314's example and the given block at SRC. -/
def fipsRun (i : Instr) (w : Vector Word 4) : State :=
  State.writeBlock { busyWith i 0 16 16 with rk := expandKey fipsKey, blk := w } 0 (bytesOfWords w)

/-- R301, R302's examples. -/
theorem test_shiftRows :
    shiftRows (Vector.ofFn fun i => BitVec.ofNat 8 i.val) = #v[0x00#8, 0x05#8, 0x0a#8, 0x0f#8, 0x04#8, 0x09#8, 0x0e#8, 0x03#8,
        0x08#8, 0x0d#8, 0x02#8, 0x07#8, 0x0c#8, 0x01#8, 0x06#8, 0x0b#8] ∧
      invShiftRows (Vector.ofFn fun i => BitVec.ofNat 8 i.val) = #v[0x00#8, 0x0d#8, 0x0a#8, 0x07#8, 0x04#8, 0x01#8, 0x0e#8,
        0x0b#8, 0x08#8, 0x05#8, 0x02#8, 0x0f#8, 0x0c#8, 0x09#8, 0x06#8, 0x03#8] := by
  decide +kernel

/-- R314's example. -/
theorem test_cipher_fips : cipher (expandKey fipsKey) (bytesOfWords fipsPlain) = bytesOfWords fipsCipher := by
  decide +kernel

/-- R315's example. -/
theorem test_invCipher_fips : invCipher (expandKey fipsKey) (bytesOfWords fipsCipher) = bytesOfWords fipsPlain := by
  decide +kernel

theorem test_aesEncBlk : (after (exec .aesEncBlk (fipsRun .aesEncBlk fipsPlain))).blk = fipsCipher := by
  show wordsOfBytes (cipher (expandKey fipsKey) (bytesOfWords fipsPlain)) = fipsCipher
  rw [test_cipher_fips]
  decide +kernel

theorem test_aesDecBlk : (after (exec .aesDecBlk (fipsRun .aesDecBlk fipsCipher))).blk = fipsPlain := by
  show wordsOfBytes (invCipher (expandKey fipsKey) (bytesOfWords fipsCipher)) = fipsPlain
  rw [test_invCipher_fips]
  decide +kernel

/-- A block reads back where it was written. -/
theorem readBlock_writeBlock (s : State) (a : Nat) (b : Block) : (s.writeBlock a b).readBlock a = b := by
  apply Vector.ext
  intro k hk
  simp only [State.readBlock, Vector.getElem_ofFn, State.dbufByte_writeBlock]
  rw [dif_pos (by omega)]
  simp

theorem readBlock_fipsRun (i : Instr) (w : Vector Word 4) : (fipsRun i w).readBlock 0 = bytesOfWords w :=
  readBlock_writeBlock _ 0 _

theorem test_ecbEnc : (ecbEncEffect (fipsRun .ecbEnc fipsPlain)).readBlock 16 = bytesOfWords fipsCipher := by
  refine (readBlock_writeBlock _ 16 _).trans ?_
  show cipher (expandKey fipsKey) ((fipsRun .ecbEnc fipsPlain).readBlock 0) = _
  rw [readBlock_fipsRun, test_cipher_fips]

theorem test_ecbDec : (ecbDecEffect (fipsRun .ecbDec fipsCipher)).readBlock 16 = bytesOfWords fipsPlain := by
  refine (readBlock_writeBlock _ 16 _).trans ?_
  show invCipher (expandKey fipsKey) ((fipsRun .ecbDec fipsCipher).readBlock 0) = _
  rw [readBlock_fipsRun, test_invCipher_fips]

/-- XOR with the zero IV's bytes. -/
theorem xor_zeroIv :
    xorBlock (bytesOfWords fipsPlain) (bytesOfWords (Vector.replicate 4 0#32)) = bytesOfWords fipsPlain ∧
      xorBlock (Vector.replicate 16 0#8) (bytesOfWords fipsCipher) = bytesOfWords fipsCipher := by
  decide +kernel

/-- R355 with IV = 0: the block, and IV holds the last ciphertext block. -/
theorem test_cbcEnc :
    (cbcEncEffect (fipsRun .cbcEnc fipsPlain)).readBlock 16 = bytesOfWords fipsCipher ∧
      (cbcEncEffect (fipsRun .cbcEnc fipsPlain)).iv = wordsOfBytes (bytesOfWords fipsCipher) := by
  have h : (cbcEncRun (fipsRun .cbcEnc fipsPlain) 1).2 = bytesOfWords fipsCipher := by
    show cipher (expandKey fipsKey) (xorBlock ((fipsRun .cbcEnc fipsPlain).readBlock 0)
      (bytesOfWords (Vector.replicate 4 0#32))) = _
    rw [readBlock_fipsRun, xor_zeroIv.1, test_cipher_fips]
  exact ⟨(readBlock_writeBlock _ 16 _).trans h, congrArg wordsOfBytes h⟩

/-- R356 with IV = 0: the block, and IV holds the last ciphertext block. -/
theorem test_cbcDec :
    (cbcDecEffect (fipsRun .cbcDec fipsCipher)).readBlock 16 = bytesOfWords fipsPlain ∧
      (cbcDecEffect (fipsRun .cbcDec fipsCipher)).iv = wordsOfBytes (bytesOfWords fipsCipher) := by
  have h : xorBlock (invCipher (expandKey fipsKey) ((fipsRun .cbcDec fipsCipher).readBlock 0))
      (bytesOfWords (Vector.replicate 4 0#32)) = bytesOfWords fipsPlain := by
    rw [readBlock_fipsRun, test_invCipher_fips, xor_zeroIv.1]
  exact ⟨(readBlock_writeBlock _ 16 _).trans h, congrArg wordsOfBytes (readBlock_fipsRun .cbcDec fipsCipher)⟩

/-- R103: the counter block's bytes are the IV's (R46). -/
theorem test_counterBlock : counterBlock (ivInt fipsPlain) = bytesOfWords fipsPlain := by decide +kernel

/-- R363: CTR of zero data is the raw keystream, here the first data byte. -/
theorem test_ctrXform :
    (ctrXformEffect { fipsRun .ctrXform (Vector.replicate 4 0#32) with iv := fipsPlain }).dbufByte 16 = 0x8e#8 := by
  let s : State := { fipsRun .ctrXform (Vector.replicate 4 0#32) with iv := fipsPlain }
  let k := (cipher (expandKey fipsKey) (counterBlock (ivInt fipsPlain))).toList.take 16
  have hk : k = (bytesOfWords fipsCipher).toList := by
    show (cipher (expandKey fipsKey) (counterBlock (ivInt fipsPlain))).toList.take 16 = _
    rw [test_counterBlock, test_cipher_fips]
    decide +kernel
  have hd : s.memRead 0 16 = List.replicate 16 0x00#8 := by
    decide +kernel
  show (State.memWrite s 16 (xorBytes (s.memRead 0 16) k)).dbufByte 16 = _
  rw [hd, hk, State.dbufByte_memWrite]
  decide +kernel

/-- R357: the counter wraps through all 128 bits (row with counter 0xFF...FF), and R358: LEN = 17 uses two counter values. -/
theorem test_ctr_counter_wraps :
    wordsOfBytes (counterBlock (ctrRun { busyWith .ctrXform 0 32 17 with iv := Vector.replicate 4 0xFFFFFFFF#32 } 2).2) =
      #v[0#32, 0#32, 0#32, 1#32] := by
  rw [ctrRun_counter]
  decide +kernel

/-! ### SHA-256 -/

/-- R411's example "abc", and R411's PROGRESS. -/
theorem test_sha256Raw_abc :
    let t := after (exec .sha256Raw
      { busyWith .sha256Raw 0 0 3 with dbuf := [(0, 0x61#8), (1, 0x62#8), (2, 0x63#8)] })
    t.digest = #v[0xba7816bf#32, 0x8f01cfea#32, 0x414140de#32, 0x5dae2223#32, 0xb00361a3#32, 0x96177a9c#32, 0xb410ff61#32,
      0xf20015ad#32] ∧ t.progress = 1#32 := by
  decide +kernel

/-- R412: LEN = 0 compresses no block and leaves H0 (R404). -/
theorem test_sha256Padded_empty :
    let t := after (exec .sha256Padded (busyWith .sha256Padded 0 0 0))
    t.digest = #v[0x6a09e667#32, 0xbb67ae85#32, 0x3c6ef372#32, 0xa54ff53a#32, 0x510e527f#32, 0x9b05688c#32, 0x1f83d9ab#32,
      0x5be0cd19#32] ∧ t.progress = 0#32 := by
  decide +kernel

/-- R405's examples: one block for L = 0 and 55, two for 56, 63, 64 and 119, three for 120. -/
theorem test_padding_blocks :
    [0, 55, 56, 63, 64, 119, 120].map (fun n => (pad (List.replicate n 0#8)).length / 64) = [1, 1, 2, 2, 2, 2, 3] := by
  decide +kernel

/-! ### Command protocol: STATUS after issue and completion (rows PR1 to PR27, Q1 to Q12) -/

/-- STATUS right after a CMD write. -/
def statusAfter (v : Word) (s : State) : Word := statusWord (play [w32 0x00C v] s)

/-- Rows PR1, PR3, PR6, PR10, PR13, PR16, PR21: each rejection code. -/
theorem test_rejections :
    statusAfter 0x00000000#32 idle = 0x00000106#32 ∧ statusAfter 0x00000110#32 (keyed 0 0 0) = 0x0000010e#32 ∧
      statusAfter 0x00000030#32 { idle with dst := 32#32, len := 16#32 } = 0x00000206#32 ∧
      statusAfter 0x00000030#32 (keyed 0 32 20) = 0x0000030e#32 ∧
      statusAfter 0x00000030#32 (keyed 2 32 16) = 0x0000040e#32 ∧
      statusAfter 0x00000030#32 (keyed 4088 0 16) = 0x0000050e#32 ∧
      statusAfter 0x00000030#32 (keyed 0 16 32) = 0x0000060e#32 := by
  decide +kernel

/-- Rows PR18, PR20, PR25, PR27: no 32-bit wrap, range at LEN = 0, the SHA checks. -/
theorem test_rejections_at_bounds :
    statusAfter 0x00000030#32 (keyed 4294967280 0 32) = 0x0000050e#32 ∧
      statusAfter 0x00000034#32 (keyed 0 4100 0) = 0x0000050e#32 ∧
      statusAfter 0x00000041#32 (keyed 0 0 63) = 0x0000030e#32 ∧
      statusAfter 0x00000041#32 (keyed 4036 0 64) = 0x0000050e#32 := by
  decide +kernel

/-- Rows PR9, PR12, PR17, PR19, PR23, PR24, PR26: accepted, BUSY = 1. -/
theorem test_acceptances :
    statusAfter 0x00000040#32 { idle with len := 3#32 } = 0x00000005#32 ∧
      statusAfter 0x00000034#32 (keyed 0 32 20) = 0x0000000d#32 ∧
      statusAfter 0x00000030#32 (keyed 4080 0 16) = 0x0000000d#32 ∧
      statusAfter 0x00000030#32 (keyed 0 4096 0) = 0x0000000d#32 ∧
      statusAfter 0x00000030#32 (keyed 0 32 32) = 0x0000000d#32 ∧
      statusAfter 0x00000034#32 (keyed 64 64 32) = 0x0000000d#32 ∧
      statusAfter 0x00000041#32 (keyed 4032 0 64) = 0x0000000d#32 := by
  decide +kernel

/-- Rows Q2 to Q7: an overrun, a dropped write, IRQ_EN while busy; LASTCMD and LEN keep their values. -/
theorem test_busy_interval :
    let t := play [w32 0x00C 0x30#32, w32 0x028 99#32, w32 0x014 2#32] (busyWith .sha256Raw 0 0 3)
    statusWord t = 0x0000007d#32 ∧ t.lastCmd = 0x40#32 ∧ t.len = 3#32 := by
  decide +kernel

/-- Rows Q9 to Q11: write 1 to clear, and irq follows at once. -/
theorem test_status_write :
    let s := { keyed 0 0 3 with done := true, cmdOverrun := true, wrIgnored := true, ovrIE := true }
    statusWord s = 0x0000007e#32 ∧ statusWord (play [w32 0x010 0x30#32] s) = 0x0000000e#32 ∧
      statusWord (play [w32 0x010 0x30#32, w32 0x014 1#32] s) = 0x0000004e#32 ∧
      statusWord (play [w32 0x010 0x30#32, w32 0x014 1#32, w32 0x010 2#32] s) = 0x0000000c#32 := by
  decide +kernel

/-! ### Bus (rows BU1 to BU19) and reset -/

/-- Rows BU2, BU3, BU4: big-endian. -/
theorem test_bus_big_endian :
    let s := { idle with dbuf := [(0, 0x61#8), (1, 0x62#8), (2, 0x63#8), (3, 0x80#8)] }
    (play [r32 0x10000] s).response = some (.okRead 0x61626380#32) ∧
      (play [.bus (.read 0x10002#17 .half)] s).response = some (.okRead 0x00006380#32) ∧
      (play [w32 0x10004 0x11223344#32, .bus (.read 0x10004#17 .byte)] s).response = some (.okRead 0x00000011#32) := by
  decide +kernel

/-- Rows BU6 to BU13: every kind of BUS_ERROR. -/
theorem test_bus_errors :
    [Transaction.read 0x10001#17 .half, .write 0x10002#17 .word 0#32, .read 0x11000#17 .word, .read 0x010#17 .half,
      .read 0x011#17 .word, .read 0x018#17 .word, .read 0x1F0#17 .word, .write 0x0A8#17 .word 1#32].map
      (fun t => (play [.bus t] idle).response) = List.replicate 8 (some .busError) := by
  decide +kernel

/-- R54, R602: after reset STATUS reads 1; one Sequencer step later the tables are valid and no DONE is set. -/
theorem test_reset :
    statusWord State.reset = 0x00000001#32 ∧ statusWord (play [.sequencer .finish] State.reset) = 0x00000004#32 := by
  decide +kernel

/-- R604: a soft reset of a running command keeps the DBUF bytes outside its destination. -/
theorem test_softReset_dbuf :
    let t := play [w32 0x008 1#32] { busyWith .ecbEnc 0 16 16 with dbuf := [(0, 0x61#8), (15, 0x62#8), (32, 0x63#8)] }
    (Memory.read t.dbuf 0, Memory.read t.dbuf 15, Memory.read t.dbuf 32) = (some 0x61#8, some 0x62#8, some 0x63#8) ∧
      t.ksValid = false ∧ t.phase = .gen := by
  decide +kernel

/-- The very next step after `withFetchWord` issues the word, here at reset, while the table generation still runs. -/
theorem test_withFetchWord : (after (step (State.reset.withFetchWord 32 0x10))).phase = .exec .keyExpand := by decide +kernel

/-- R157: a POLL line stays while the condition fails and goes on when it holds. -/
theorem test_hostWait :
    let h : HostAgent := ⟨[hostWait], 0, [], false⟩
    (play [.hostLine] { State.reset with host := h }).host.line = 0 ∧
      (play [.hostLine] { idle with host := h }).host.line = 1 := by
  decide +kernel

/-- R158 with R157's variables: SETIV writes IV[k] at 0x060 + 4k, here the value of a Host variable, SETKEY's last line KEY[7]. -/
theorem test_hostSet_variable :
    hostSetIv #v[.var 3, .lit 1#32, .lit 2#32, .var 4] =
        [.write .word 0x060#17 (.var 3), .write .word 0x064#17 (.lit 1#32), .write .word 0x068#17 (.lit 2#32),
          .write .word 0x06C#17 (.var 4)] ∧
      (hostSetKey (Vector.replicate 8 (.var 0))).getLast? = some (.write .word 0x05C#17 (.var 0)) ∧
      (play [.hostLine] { idle with host := ⟨hostSetBlk (Vector.replicate 4 (.var 3)), 0, [(3, 9#32)], false⟩ }).blk[0] = 9#32 := by
  decide +kernel

/-! ### Witnesses: concrete states and operands that meet the hypotheses of each obligation, clause by clause at its bounds -/

/-- The idle core with one turn to come. -/
def idleIn (e : Event) : State := { idle with inputs := [e] }

/-- A core that runs SHA256_RAW, with one turn to come. -/
def busyIn (e : Event) : State := { busyWith .sha256Raw 0 0 3 with inputs := [e] }

theorem witness_DecodeAndEncodeAgree : decode 0x00000034#32 = .ok .ctrXform := by decide

/-- RSVD not 0 at its lowest and highest bit; OP = 0x00 and 0xFF. -/
theorem witness_IllegalWordIsRejected :
    (∀ v ∈ [0x00000110#32, 0x80000001#32, 0x00000000#32, 0x000000FF#32], ∀ i, decode v ≠ .ok i) ∧
      (idleIn (w32 0x00C 0x00000110#32)).inputs = [.bus (.write 0x00C#17 .word 0x00000110#32)] ∧
      (idleIn (w32 0x00C 0x00000110#32)).phase = .idle := by
  refine ⟨?_, rfl, rfl⟩
  have h : decode 0x00000110#32 = .error .rsvdNotZero ∧ decode 0x80000001#32 = .error .rsvdNotZero ∧
      decode 0x00000000#32 = .error .opUnassigned ∧ decode 0x000000FF#32 = .error .opUnassigned := by decide +kernel
  intro v hv i
  simp only [List.mem_cons, List.not_mem_nil, or_false] at hv
  rcases hv with rfl | rfl | rfl | rfl <;> simp [h]

theorem witness_StepRunsDecodedCommand :
    (idleIn (w32 0x00C 0x00000010#32)).inputs = [.bus (.write 0x00C#17 .word 0x00000010#32)] ∧
      (idleIn (w32 0x00C 0x00000010#32)).busy = false ∧ decode 0x00000010#32 = .ok .keyExpand ∧
      decodeTableWord 32 0x41 = some .sha256Padded := by
  decide +kernel

theorem witness_SequencerRunsTheRunningCommand :
    (busyIn (.sequencer .finish)).phase = .exec .sha256Raw ∧ (busyIn (.sequencer .finish)).inputs = [.sequencer .finish] ∧
      (busyWith .sha256Raw 0 0 3).inputs = [] := by
  decide +kernel

/-- A Sequencer turn, a SET line listed and not listed, and a halted Host. -/
theorem witness_IdleCoreIsUnchanged :
    let h : HostAgent := ⟨[.set 0 5#32], 0, [], false⟩
    (idleIn (.sequencer .work)).phase = .idle ∧ (idleIn (.sequencer .work)).inputs = [.sequencer .work] ∧
      h.transaction h.current = none ∧ ({ idleIn .hostLine with host := h } : State).inputs = [.hostLine] ∧
      idle.phase = .idle ∧ idle.inputs = [] ∧ idle.host.current = .halt := by
  decide +kernel

/-- A command with every check, its regions ending exactly at DBUF_BYTES, and TBL_GEN. -/
theorem witness_AcceptanceStartsBusyInterval :
    (keyed 0 4080 16).phase = .idle ∧ rejection .ecbEnc (keyed 0 4080 16) = none ∧ Instr.ecbEnc ≠ .tblGen ∧
      rejection .tblGen (keyed 0 0 0) = none := by
  decide +kernel

theorem witness_AcceptedCommandCompletes :
    (keyed 4080 4080 16).phase = .idle ∧ rejection .cbcDec (keyed 4080 4080 16) = none := by decide +kernel

/-- One state for each code that a check can report. -/
theorem witness_RejectionChangesOnlyTheRecord :
    idle.phase = .idle ∧ rejection .aesEncBlk idle = some .eNoKey ∧ (keyed 0 32 20).phase = .idle ∧
      rejection .ecbEnc (keyed 0 32 20) = some .eLen ∧ rejection .ctrXform (keyed 2 32 16) = some .eAlign ∧
      rejection .sha256Raw (keyed 4096 0 1) = some .eRange ∧ rejection .cbcEnc (keyed 0 12 16) = some .eOverlap := by
  decide +kernel

/-- Each clause: a key missing; LEN off by one from 16 and from 64; SRC and DST off 4; a region one byte too long; regions sharing
4 bytes; and a state that passes with the regions adjacent, ending at DBUF_BYTES. -/
theorem witness_ChecksFollowTheProtocol :
    idle.ksValid = false ∧ (keyed 0 16 16).ksValid = true ∧ (keyed 0 16 15).len.toNat % 16 ≠ 0 ∧
      (keyed 0 0 63).len.toNat % 64 ≠ 0 ∧ (keyed 2 16 16).src.toNat % 4 ≠ 0 ∧ (keyed 0 18 16).dst.toNat % 4 ≠ 0 ∧
      (keyed 4080 0 17).src.toNat + (keyed 4080 0 17).len.toNat > (keyed 4080 0 17).config.dbufBytes ∧
      (keyed 0 4080 17).dst.toNat + (keyed 0 4080 17).len.toNat > (keyed 0 4080 17).config.dbufBytes ∧
      (keyed 0 12 16).src.toNat < 12 + 16 ∧ (keyed 0 12 16).dst.toNat < 0 + 16 ∧
      rejection .ecbEnc (keyed 4064 4080 16) = none := by
  decide +kernel

theorem witness_OverrunSetsOnlyItsFlag :
    (busyIn (w32 0x00C 0x12345678#32)).inputs = [.bus (.write 0x00C#17 .word 0x12345678#32)] ∧
      (busyIn (w32 0x00C 0x12345678#32)).busy = true := by
  decide +kernel

/-- PROGRESS below the block count, and at it. -/
theorem witness_ProgressCountsUpToBlockCount :
    let s := { busyWith .ecbEnc 0 64 32 with progress := 1#32, inputs := [.sequencer .block] }
    let t := { busyWith .ecbEnc 0 64 32 with progress := 2#32, inputs := [.sequencer .block] }
    s.phase = .exec .ecbEnc ∧ s.progress.toNat ≤ blockCount .ecbEnc s ∧ SeqStep.block ≠ .finish ∧
      s.inputs = [.sequencer .block] ∧ t.progress.toNat ≤ blockCount .ecbEnc t := by
  decide +kernel

theorem witness_CommandsKeepOperandRegisters : ∃ t, exec .sha256Raw (busyWith .sha256Raw 0 0 3) = .next t :=
  ⟨_, exec_running rfl⟩

theorem witness_ZeroLengthIsLegal :
    ∀ i ∈ [Instr.ecbEnc, .ctrXform, .sha256Raw, .sha256Padded], (busyWith i 0 4096 0).phase = .exec i ∧
      (busyWith i 0 4096 0).len = 0#32 := by
  decide +kernel

theorem witness_GinvIsTheUniqueInverse : (0x01#8 : Byte) ≠ 0x00#8 ∧ gmul 0x53#8 0xCA#8 = 0x01#8 := by decide +kernel

theorem witness_TablesAreRotations : (1 : Fin 4) ≠ 0 ∧ (3 : Fin 4) ≠ 0 := by decide

/-- The first and the last SEL of each clause. -/
theorem witness_TableReadoutIsGeneratedTable :
    (2#4).toNat = 2 + (0 : Fin 4).val ∧ (5#4).toNat = 2 + (3 : Fin 4).val ∧ (6#4).toNat = 6 + (0 : Fin 4).val ∧
      (9#4).toNat = 6 + (3 : Fin 4).val ∧ 10 ≤ (10#4).toNat ∧ 10 ≤ (15#4).toNat := by
  decide

theorem witness_TblGenFillsTables : (busyWith .tblGen 0 0 0).phase = .exec .tblGen := rfl

/-- A step that ends a generation. -/
theorem witness_OnlyGenerationWritesTables : ∃ t, step State.reset = .next t ∧ t.tblValid = true := ⟨_, rfl, rfl⟩

/-- The first and the last derived word, and one index of each clause. -/
theorem witness_ScheduleRecurrence :
    (8 ≤ 8 ∧ 8 < 60 ∧ 8 % 8 = 0) ∧ (8 ≤ 12 ∧ 12 < 60 ∧ 12 % 8 = 4) ∧ (8 ≤ 59 ∧ 59 < 60 ∧ 59 % 8 ≠ 0 ∧ 59 % 8 ≠ 4) := by
  decide

theorem witness_KeyExpandWritesSchedule : (busyWith .keyExpand 0 0 0).phase = .exec .keyExpand := rfl

/-- A step that writes RK. -/
theorem witness_OnlyKeyExpandAndResetWriteRk :
    ∃ t, step (busyWith .keyExpand 0 0 0) = .next t ∧ t.rk = expandKey (busyWith .keyExpand 0 0 0).key := ⟨_, rfl, rfl⟩

/-- The first and the last KEY register; a state without a key; a step that sets KS_VALID. -/
theorem witness_KeyWriteInvalidatesSchedule :
    (idleIn (w32 0x040 7#32)).inputs = [.bus (.write (BitVec.ofNat 17 (0x040 + 4 * (0 : Fin 8).val)) .word 7#32)] ∧
      (idleIn (w32 0x05C 7#32)).inputs = [.bus (.write (BitVec.ofNat 17 (0x040 + 4 * (7 : Fin 8).val)) .word 7#32)] ∧
      (idleIn (w32 0x040 7#32)).phase = .idle ∧ idle.ksValid = false ∧
      ∃ t, step { busyWith .keyExpand 0 0 0 with ksValid := false } = .next t ∧ t.ksValid = true :=
  ⟨rfl, rfl, rfl, rfl, _, rfl, rfl⟩

theorem witness_BlockCommandsTransformBlk :
    (busyWith .aesEncBlk 0 0 0).phase = .exec .aesEncBlk ∧ (busyWith .aesDecBlk 0 0 0).phase = .exec .aesDecBlk := ⟨rfl, rfl⟩

/-- In place at the end of DBUF, disjoint and adjacent, and of length 0 at DBUF_BYTES. -/
theorem witness_EcbTransformsEachBlock :
    Running .ecbEnc (busyWith .ecbEnc 4080 4080 16) ∧ Running .ecbDec (busyWith .ecbDec 0 32 32) ∧
      Running .ecbEnc (busyWith .ecbEnc 0 4096 0) := by
  refine ⟨⟨rfl, ?_⟩, ⟨rfl, ?_⟩, ⟨rfl, ?_⟩⟩ <;> decide +kernel

theorem witness_CbcEncChainsCiphertext :
    Running .cbcEnc (busyWith .cbcEnc 64 0 64) ∧ Running .cbcEnc (busyWith .cbcEnc 0 4096 0) := by
  refine ⟨⟨rfl, ?_⟩, ⟨rfl, ?_⟩⟩ <;> decide +kernel

theorem witness_CbcDecUnchainsCiphertext :
    Running .cbcDec (busyWith .cbcDec 64 64 64) ∧ Running .cbcDec (busyWith .cbcDec 4096 4096 0) := by
  refine ⟨⟨rfl, ?_⟩, ⟨rfl, ?_⟩⟩ <;> decide +kernel

/-- A last block of 1 byte, and of 16. -/
theorem witness_CtrXorsKeystream :
    Running .ctrXform (busyWith .ctrXform 0 4076 17) ∧ Running .ctrXform (busyWith .ctrXform 0 0 32) := by
  refine ⟨⟨rfl, ?_⟩, ⟨rfl, ?_⟩⟩ <;> decide +kernel

theorem witness_ModesRoundTrip :
    Running .ecbEnc (busyWith .ecbEnc 0 16 16) ∧ Running .cbcEnc (busyWith .cbcEnc 0 16 16) ∧
      Running .ctrXform (busyWith .ctrXform 0 20 17) := by
  refine ⟨⟨rfl, ?_⟩, ⟨rfl, ?_⟩, ⟨rfl, ?_⟩⟩ <;> decide +kernel

/-- L1 = 0, L2 = 0, and both not 0. -/
theorem witness_SplitCommandContinues :
    Running .ctrXform (busyWith .ctrXform 0 64 33) ∧ (busyWith .ctrXform 0 64 33).config.wf = true ∧
      (busyWith .ctrXform 0 64 33).len.toNat = 32 + 1 ∧ (busyWith .ctrXform 0 64 33).len.toNat = 0 + 33 ∧
      Running .cbcEnc (busyWith .cbcEnc 0 64 32) ∧ (busyWith .cbcEnc 0 64 32).len.toNat = 32 + 0 := by
  refine ⟨⟨rfl, ?_⟩, ?_, ?_, ?_, ⟨rfl, ?_⟩, ?_⟩ <;> decide +kernel

/-- The same 16 bytes at the same source, in place and with a disjoint destination. -/
theorem witness_InPlaceEqualsOutOfPlace :
    let s := busyWith .cbcDec 0 16 16
    let s' := busyWith .cbcDec 0 0 16
    Running .cbcDec s ∧ Running .cbcDec s' ∧ s.src ≠ s.dst ∧ s'.src = s'.dst ∧ s'.len = s.len ∧ s'.rk = s.rk ∧
      s'.iv = s.iv ∧ s'.memRead s'.src.toNat s.len.toNat = s.memRead s.src.toNat s.len.toNat := by
  refine ⟨⟨rfl, ?_⟩, ⟨rfl, ?_⟩, ?_, rfl, rfl, rfl, rfl, rfl⟩ <;> decide +kernel

/-- The first and the last index of each clause. -/
theorem witness_MessageScheduleRecurrence :
    0 < 16 ∧ 15 < 16 ∧ 16 ≤ 16 ∧ 16 < 64 ∧ 16 ≤ 63 ∧ 63 < 64 ∧ 0 < 64 := by decide

theorem witness_ShaCommandsWriteDigest :
    (busyWith .sha256Raw 0 0 3).phase = .exec .sha256Raw ∧ (busyWith .sha256Padded 0 0 64).phase = .exec .sha256Padded :=
  ⟨rfl, rfl⟩

/-- The empty message and its padded block. -/
theorem witness_PaddedHashEqualsRawHash :
    let s := busyWith .sha256Raw 0 0 0
    let s' := { busyWith .sha256Padded 0 0 64 with dbuf := Memory.writeBytes [] 0 (0x80#8 :: List.replicate 63 0#8) }
    s.phase = .exec .sha256Raw ∧ s'.phase = .exec .sha256Padded ∧
      s'.memRead s'.src.toNat s'.len.toNat = pad (s.memRead s.src.toNat s.len.toNat) := by
  decide +kernel

/-- A step that writes DIGEST, and one that resets it. -/
theorem witness_OnlyShaAndResetWriteDigest :
    (∃ t, step (busyWith .sha256Padded 0 0 0) = .next t ∧ t.phase = .idle) ∧
      ∃ t, step (idleIn .hardReset) = .next t ∧ t.phase = .gen :=
  ⟨⟨_, rfl, rfl⟩, _, rfl, rfl⟩

/-- The lowest and the highest register. -/
theorem witness_RegisterMapIsExact :
    target Config.default 0x000#17 .word = some (.reg .id) ∧ target Config.default 0x1EC#17 .word = some (.reg (.rk 59)) ∧
      Reg.offset (.rk 59) = 0x1EC := by
  decide +kernel

/-- A narrow, a misaligned and an unmapped register access (0x018, 0x1F0, 0xFFFC); a misaligned DBUF access, and the first one past
DBUF_BYTES. -/
theorem witness_BusErrorHasNoEffect :
    (0x010#17).toNat < 0x10000 ∧ Size.half ≠ .word ∧ (0x011#17).toNat % 4 ≠ 0 ∧
      (∀ r : Reg, r.offset ≠ (0x018#17).toNat ∧ r.offset ≠ (0x1F0#17).toNat ∧ r.offset ≠ (0xFFFC#17).toNat) ∧
      (0x10002#17).toNat % Size.bytes .word ≠ 0 ∧ idle.config.dbufBytes < (0x11000#17).toNat - 0x10000 + Size.bytes .byte ∧
      (idleIn (r32 0x018)).inputs = [.bus (.read 0x018#17 .word)] ∧
      (idleIn (w32 0x018 1#32)).inputs = [.bus (.write 0x018#17 .word 1#32)] := by
  refine ⟨by decide, by decide, by decide, ?_, by decide, by decide, rfl, rfl⟩
  intro r
  cases r <;> simp [Reg.offset] <;> omega

/-- A read turn, and the lowest and the highest register of an idle core. -/
theorem witness_ReadsHaveNoSideEffect :
    (idleIn (r32 0x010)).inputs = [.bus (.read 0x010#17 .word)] ∧ (idleIn (r32 0x1EC)).phase = .idle ∧
      (idleIn (r32 0x1EC)).inputs = [.bus (.read 0x1EC#17 .word)] ∧
      target (idleIn (r32 0x1EC)).config 0x1EC#17 .word = some (.reg (.rk 59)) ∧
      target (idleIn (r32 0x010)).config 0x000#17 .word = some (.reg .id) := by
  decide +kernel

theorem witness_IdentificationIsConstant :
    (idleIn (r32 0x000)).inputs = [.bus (.read 0x000#17 .word)] ∧ (busyIn (r32 0x004)).inputs = [.bus (.read 0x004#17 .word)] ∧
      (idleIn (w32 0x000 0#32)).inputs = [.bus (.write 0x000#17 .word 0#32)] := ⟨rfl, rfl, rfl⟩

/-- A volatile register, one that is not, and the first and the last DBUF byte. -/
theorem witness_BusyReadsReturnZero :
    (busyIn (r32 0x080)).busy = true ∧ (busyIn (r32 0x080)).inputs = [.bus (.read 0x080#17 .word)] ∧
      target Config.default 0x080#17 .word = some (.reg (.digest 0)) ∧
      target Config.default 0x028#17 .word = some (.reg .len) ∧ target Config.default 0x10000#17 .byte = some (.dbuf 0) ∧
      target Config.default 0x10FFF#17 .byte = some (.dbuf 4095) := by
  decide +kernel

theorem witness_BusyReadsRevealNoResult :
    ∃ s s' : State, s.busy = true ∧ s'.iv ≠ s.iv ∧ s' = { s with
      iv := s'.iv, blk := s'.blk, digest := s'.digest, rk := s'.rk, tbl := s'.tbl, dbuf := s'.dbuf,
      dbufDraw := s'.dbufDraw, draws := s'.draws } :=
  ⟨State.reset, { State.reset with iv := Vector.replicate 4 1#32 }, rfl, by decide, rfl⟩

/-- Busy: DBUF, the first and the last locked register. Idle and busy: the first and the last read-only register. -/
theorem witness_BusyWritesAreDropped :
    (busyIn (w32 0x10000 1#32)).busy = true ∧ (busyIn (w32 0x10000 1#32)).inputs = [.bus (.write 0x10000#17 .word 1#32)] ∧
      target Config.default 0x10000#17 .word = some (.dbuf 0) ∧ target Config.default 0x020#17 .word = some (.reg .src) ∧
      target Config.default 0x0A0#17 .word = some (.reg .tblAddr) ∧ target Config.default 0x07C#17 .word = some (.reg (.blk 3)) ∧
      (idleIn (w32 0x1EC 1#32)).inputs = [.bus (.write 0x1EC#17 .word 1#32)] ∧
      target Config.default 0x000#17 .word = some (.reg .id) ∧ target Config.default 0x1EC#17 .word = some (.reg (.rk 59)) := by
  decide +kernel

/-- The first and the last register of the map that a write stores to, and of each array. -/
theorem witness_WrittenRegisterReadsBack :
    (idleIn (w32 0x0A0 0xFFFFFFFF#32)).phase = .idle ∧ (idleIn (w32 0x020 5#32)).inputs = [.bus (.write 0x020#17 .word 5#32)] ∧
      (idleIn (w32 0x024 5#32)).inputs = [.bus (.write 0x024#17 .word 5#32)] ∧
      (idleIn (w32 0x028 5#32)).inputs = [.bus (.write 0x028#17 .word 5#32)] ∧
      (idleIn (w32 0x040 5#32)).inputs = [.bus (.write (BitVec.ofNat 17 (0x040 + 4 * (0 : Fin 8).val)) .word 5#32)] ∧
      (idleIn (w32 0x06C 5#32)).inputs = [.bus (.write (BitVec.ofNat 17 (0x060 + 4 * (3 : Fin 4).val)) .word 5#32)] ∧
      (idleIn (w32 0x07C 5#32)).inputs = [.bus (.write (BitVec.ofNat 17 (0x070 + 4 * (3 : Fin 4).val)) .word 5#32)] ∧
      (idleIn (w32 0x0A0 0xFFFFFFFF#32)).inputs = [.bus (.write 0x0A0#17 .word 0xFFFFFFFF#32)] ∧
      (idleIn (w32 0x05C 5#32)).inputs = [.bus (.write (BitVec.ofNat 17 (Reg.offset (.key 7))) .word 5#32)] :=
  ⟨rfl, rfl, rfl, rfl, rfl, rfl, rfl, rfl, rfl⟩

theorem witness_ControlWritesTakeEffect :
    (busyIn (w32 0x010 0x32#32)).inputs = [.bus (.write 0x010#17 .word 0x32#32)] ∧
      (busyIn (w32 0x014 3#32)).inputs = [.bus (.write 0x014#17 .word 3#32)] ∧
      (busyIn (w32 0x008 0xFFFFFFFE#32)).inputs = [.bus (.write 0x008#17 .word 0xFFFFFFFE#32)] ∧
      (0xFFFFFFFE#32).getLsbD 0 = false := by
  decide +kernel

/-- The first byte and the last word of DBUF, written and read. -/
theorem witness_DbufIsBigEndian :
    (idleIn (w32 0x10FFC 1#32)).config.wf = true ∧ (idleIn (w32 0x10FFC 1#32)).phase = .idle ∧
      4092 % Size.bytes .word = 0 ∧ 4092 + Size.bytes .word ≤ (idleIn (w32 0x10FFC 1#32)).config.dbufBytes ∧
      0 % Size.bytes .byte = 0 ∧
      (idleIn (w32 0x10FFC 1#32)).inputs = [.bus (.write (BitVec.ofNat 17 (0x10000 + 4092)) .word 1#32)] ∧
      (idleIn (r32 0x10FFC)).inputs = [.bus (.read (BitVec.ofNat 17 (0x10000 + 4092)) .word)] := by
  decide +kernel

theorem witness_HostLineIsItsTransaction :
    let s : State := { idleIn .hostLine with host := ⟨[.read 0x010#17 0], 0, [], false⟩ }
    s.inputs = [.hostLine] ∧ s.host.transaction s.host.current = some (.read 0x010#17 .word) := by
  decide +kernel

theorem witness_ResetValues : ∃ t, t = softReset idle ∧ t ≠ idle ∧ (Reg.src ≠ .id ∧ Reg.src ≠ .version ∧ Reg.src ≠ .status ∧
    Reg.src ≠ .tblData) :=
  ⟨_, rfl, fun h => absurd (congrArg State.phase h) (by decide), by decide⟩

/-- Idle, and while a mode command runs, for a byte just below and just above its destination. -/
theorem witness_SoftResetKeepsDbuf :
    let s := { busyWith .ecbEnc 0 16 16 with inputs := [w32 0x008 1#32] }
    s.inputs = [.bus (.write 0x008#17 .word 1#32)] ∧ (1#32).getLsbD 0 = true ∧ 15 < s.dst.toNat ∧
      s.dst.toNat + s.len.toNat ≤ 32 ∧
      ∀ i ∈ [Instr.ecbEnc, .ecbDec, .cbcEnc, .cbcDec, .ctrXform], idle.phase ≠ .exec i := by
  decide +kernel

theorem witness_HardResetResetsRegisters : (busyIn .hardReset).inputs = [.hardReset] := rfl

theorem witness_ResetGenerationEnds :
    ({ State.reset with inputs := [.sequencer .finish] } : State).phase = .gen ∧
      ({ State.reset with inputs := [.sequencer .finish] } : State).inputs = [.sequencer .finish] := ⟨rfl, rfl⟩

/-- A core that runs a command satisfies the invariant, and steps. -/
theorem witness_StepKeepsInvariant :
    let s : State := { busyWith .sha256Raw 0 0 3 with dbuf := [(0, 0x61#8), (1, 0x62#8), (2, 0x63#8)] }
    State.Inv s ∧ ∃ t, step s = .next t := by
  refine ⟨⟨rfl, by decide, by decide, fun _ _ => ⟨rfl, rfl⟩, ?_, fun _ => rfl, ?_, ?_, ?_⟩, _, rfl⟩
  · rintro (h | h) <;> cases h
  · intro i h
    cases h
    decide +kernel
  · intro i h
    cases h
    exact ⟨rfl, rfl, rfl, Nat.zero_le _⟩
  · intro h
    cases h

end Sys2Proof.Tests
end

section
/-! PROOF. What each operation does to DBUF, as the invariant asks it: canonical, and nothing listed at or beyond DBUF_BYTES. -/

namespace Sys2Proof.Machine

/-- `m` is canonical and lists nothing at or beyond address `n` (R102). -/
def Memory.Within (n : Nat) (m : Memory) : Prop := Memory.wf m ∧ ∀ c ∈ m, c.1 < n

theorem Memory.within_nil (n : Nat) : Memory.Within n [] := ⟨List.Pairwise.nil, by simp⟩

theorem Memory.Within.writeBytes {n : Nat} {m : Memory} (h : Memory.Within n m) {x : Nat} {bs : List Byte}
    (hb : x + bs.length ≤ n) : Memory.Within n (Memory.writeBytes m x bs) := by
  refine ⟨Memory.writeBytes_wf h.1 x bs, fun c hc => ?_⟩
  rcases Memory.mem_writeBytes hc with hc | hc
  · omega
  · exact h.2 c hc

theorem beBytes_length (n : Nat) (v : Word) : (beBytes n v).length = n := by simp [beBytes]

/-- An abort writes only inside the destination of the running command, whose checks still hold (R604). -/
theorem abortedDbuf_within (s : State) (h : Memory.Within s.config.dbufBytes s.dbuf)
    (hr : ∀ i, s.phase = .exec i → rejection i s = none) : Memory.Within s.config.dbufBytes (abortedDbuf s) := by
  unfold abortedDbuf
  split
  · exact h
  · exact h
  · rename_i i hp
    split
    · rename_i hw
      exact h.writeBytes (by simpa using dst_inside hw (hr i hp))
    · exact h

/-- A run that writes one 16-byte block after another from `d` up stays below `d + 16 n`. -/
theorem within_of_blockWrites {k d : Nat} (run : Nat → Memory) (h : Memory.Within k (run 0))
    (hstep : ∀ n, ∃ b : Block, run (n + 1) = Memory.writeBytes (run n) (d + 16 * n) b.toList) (n : Nat)
    (hk : d + 16 * n ≤ k) : Memory.Within k (run n) := by
  induction n with
  | zero => exact h
  | succ n ih =>
    obtain ⟨b, hb⟩ := hstep n
    rw [hb]
    exact (ih (by omega)).writeBytes (by rw [Vector.length_toList]; omega)

theorem ecbRun_within {k : Nat} {s : State} (h : Memory.Within k s.dbuf) (f : Block → Block) (n : Nat)
    (hk : s.dst.toNat + 16 * n ≤ k) : Memory.Within k (ecbRun f s n) :=
  within_of_blockWrites (ecbRun f s) h (fun _ => ⟨_, rfl⟩) n hk

theorem cbcEncRun_succ_dbuf (s : State) (n : Nat) :
    (cbcEncRun s (n + 1)).1 = Memory.writeBytes (cbcEncRun s n).1 (s.dst.toNat + 16 * n) (cbcEncRun s (n + 1)).2.toList := by
  simp only [cbcEncRun, writeBlock_dbuf]

theorem cbcEncRun_within {k : Nat} {s : State} (h : Memory.Within k s.dbuf) (n : Nat)
    (hk : s.dst.toNat + 16 * n ≤ k) : Memory.Within k (cbcEncRun s n).1 :=
  within_of_blockWrites (fun n => (cbcEncRun s n).1) h (fun n => ⟨_, cbcEncRun_succ_dbuf s n⟩) n hk

theorem cbcDecRun_succ_dbuf (s : State) (n : Nat) : ∃ b : Block,
    (cbcDecRun s (n + 1)).1 = Memory.writeBytes (cbcDecRun s n).1 (s.dst.toNat + 16 * n) b.toList := by
  simp only [cbcDecRun, writeBlock_dbuf]
  exact ⟨_, rfl⟩

theorem cbcDecRun_within {k : Nat} {s : State} (h : Memory.Within k s.dbuf) (n : Nat)
    (hk : s.dst.toNat + 16 * n ≤ k) : Memory.Within k (cbcDecRun s n).1 :=
  within_of_blockWrites (fun n => (cbcDecRun s n).1) h (cbcDecRun_succ_dbuf s) n hk

/-- The last block of CTR may be short, so the bound is LEN itself (R358). -/
theorem ctrRun_within {k : Nat} {s : State} (h : Memory.Within k s.dbuf) (hk : s.dst.toNat + s.len.toNat ≤ k) (n : Nat)
    (hn : n ≤ (s.len.toNat + 15) / 16) : Memory.Within k (ctrRun s n).1 := by
  induction n with
  | zero => exact h
  | succ n ih =>
    refine (ih (by omega)).writeBytes ?_
    simp only [xorBytes, State.memRead, List.length_zipWith, List.length_map, List.length_range, List.length_take,
      Vector.length_toList]
    omega

/-- A command whose checks pass leaves DBUF canonical and inside DBUF_BYTES (R170). -/
theorem effectOf_dbuf_within {i : Instr} {s : State} (h : Memory.Within s.config.dbufBytes s.dbuf)
    (hr : rejection i s = none) : Memory.Within s.config.dbufBytes (effectOf i s).dbuf := by
  have hblocks : 16 * (s.len.toNat / 16) ≤ s.len.toNat := Nat.mul_div_le ..
  cases i with
  | tblGen | keyExpand | aesEncBlk | aesDecBlk | sha256Raw | sha256Padded => exact h
  | ecbEnc | ecbDec =>
    have hd := dst_inside rfl hr
    exact ecbRun_within h _ _ (by simp only [blockCount]; omega)
  | cbcEnc =>
    have hd := dst_inside rfl hr
    exact cbcEncRun_within h _ (by simp only [blockCount]; omega)
  | cbcDec =>
    have hd := dst_inside rfl hr
    exact cbcDecRun_within h _ (by simp only [blockCount]; omega)
  | ctrXform => exact ctrRun_within h (dst_inside rfl hr) _ (Nat.le_refl _)

end Sys2Proof.Machine
end

section
/-! PROOF. Frames of the operations that change only part of the state, and PROGRESS while a command runs (R39). -/

namespace Sys2Proof.Machine

theorem rejection_none_of_same_operands {i : Instr} {s t : State} (h : rejection i s = none) (hc : t.config = s.config)
    (hk : t.ksValid = s.ksValid) (hs : t.src = s.src) (hd : t.dst = s.dst) (hl : t.len = s.len) : rejection i t = none :=
  (rejection_congr i hc hk hs hd hl).trans h

theorem startOf_of_ne_tblGen {i : Instr} (h : i ≠ .tblGen) (s : State) : startOf i s = s := by
  cases i with
  | tblGen => exact absurd rfl h
  | _ => rfl

/-- A start writes at most TBL_VALID and the tables (R215), and the model's draw counter. -/
theorem startOf_frame (i : Instr) (s : State) :
    startOf i s = { s with
      tblValid := (startOf i s).tblValid, tbl := (startOf i s).tbl, draws := (startOf i s).draws } := by
  cases i <;> rfl

theorem writePlainReg_ctrl_set {v : Word} (hv : v.getLsbD 0 = true) (s : State) :
    writePlainReg .ctrl v s = softReset s := if_pos hv

theorem writePlainReg_ctrl_clear {v : Word} (hv : v.getLsbD 0 = false) (s : State) : writePlainReg .ctrl v s = s :=
  if_neg (by rw [hv]; decide)

/-- A write to a register is a soft reset, or it writes at most the write-1-to-clear flags, IRQ_EN, and the operand and data
registers; it never sets KS_VALID (R33 to R49). -/
theorem writePlainReg_cases (r : Reg) (v : Word) (s : State) :
    writePlainReg r v s = softReset s ∨
      ((writePlainReg r v s).ksValid = true → s.ksValid = true) ∧
      writePlainReg r v s = { s with
        done := (writePlainReg r v s).done, cmdOverrun := (writePlainReg r v s).cmdOverrun
        wrIgnored := (writePlainReg r v s).wrIgnored, doneIE := (writePlainReg r v s).doneIE
        ovrIE := (writePlainReg r v s).ovrIE, src := (writePlainReg r v s).src, dst := (writePlainReg r v s).dst
        len := (writePlainReg r v s).len, key := (writePlainReg r v s).key, ksValid := (writePlainReg r v s).ksValid
        iv := (writePlainReg r v s).iv, blk := (writePlainReg r v s).blk, tblSel := (writePlainReg r v s).tblSel
        tblIdx := (writePlainReg r v s).tblIdx } := by
  cases r with
  | ctrl =>
    cases hv : v.getLsbD 0 with
    | true => exact .inl (writePlainReg_ctrl_set hv s)
    | false =>
      rw [writePlainReg_ctrl_clear hv]
      exact .inr ⟨id, rfl⟩
  | key k => exact .inr ⟨nofun, rfl⟩
  | _ => exact .inr ⟨id, rfl⟩

theorem blockCount_lt (i : Instr) (s : State) : blockCount i s < 2 ^ 32 - 1 := by
  have hl := s.len.isLt
  cases i <;> simp only [blockCount, paddedBlocks] <;> omega

/-- One more finished block changes PROGRESS alone. -/
theorem advance_frame (i : Instr) (s : State) : advance i s = { s with progress := (advance i s).progress } := by
  unfold advance
  split <;> rfl

theorem advance_progress (i : Instr) (s : State) :
    (advance i s).progress = s.progress ∨
      (advance i s).progress.toNat = s.progress.toNat + 1 ∧ (advance i s).progress.toNat ≤ blockCount i s := by
  unfold advance
  split
  · rename_i hlt
    have hb := blockCount_lt i s
    have hsucc : (s.progress + 1#32).toNat = s.progress.toNat + 1 := by
      rw [BitVec.toNat_add]
      simp only [BitVec.toNat_ofNat]
      omega
    exact .inr ⟨hsucc, by rw [hsucc]; exact hlt⟩
  · exact .inl rfl

theorem advance_progress_le {i : Instr} {s : State} (h : s.progress.toNat ≤ blockCount i s) :
    (advance i s).progress.toNat ≤ blockCount i s := by
  rcases advance_progress i s with hp | ⟨-, hp⟩
  · rw [hp]; exact h
  · exact hp

end Sys2Proof.Machine
end

section
/-! PROOF. The state in which every register has its reset value (R54), whichever reset led there. -/

namespace Sys2Proof.Machine

/-- Every register of `t` has its reset value; the parameters, the table RAMs, DBUF and the Host's side are left open. -/
def AtReset (t : State) : Prop :=
  t = { State.reset with
    config := t.config, tbl := t.tbl, dbuf := t.dbuf, draws := t.draws, dbufDraw := t.dbufDraw, response := t.response
    host := t.host, inputs := t.inputs }

theorem reset_atReset : AtReset State.reset := rfl
theorem softReset_atReset (s : State) : AtReset (softReset s) := rfl
theorem hardReset_atReset (s : State) : AtReset (hardReset s) := rfl

theorem AtReset.phase_eq {t : State} (h : AtReset t) : t.phase = .gen := congrArg State.phase h
theorem AtReset.tblValid_eq {t : State} (h : AtReset t) : t.tblValid = false := congrArg State.tblValid h
theorem AtReset.ksValid_eq {t : State} (h : AtReset t) : t.ksValid = false := congrArg State.ksValid h
theorem AtReset.rk_eq {t : State} (h : AtReset t) : t.rk = Vector.replicate 60 0#32 := congrArg State.rk h
theorem AtReset.digest_eq {t : State} (h : AtReset t) : t.digest = Vector.replicate 8 0#32 := congrArg State.digest h

end Sys2Proof.Machine
end

section
/-! PROOF. The invariant, one lemma per change a step can make, and from them that every step keeps it. -/

namespace Sys2Proof.Machine

theorem State.Inv.within {s : State} (h : State.Inv s) : Memory.Within s.config.dbufBytes s.dbuf :=
  ⟨h.dbufCanonical, h.dbufInside⟩

theorem State.Inv.tablesReady_of_idle {s : State} (h : State.Inv s) (hp : s.phase = .idle) : TablesReady s :=
  h.tablesReady (by simp [hp]) (by simp [hp])

/-- A change to fields the invariant says nothing about, and to DONE and PROGRESS as far as the invariant lets them. -/
theorem State.Inv.of_record {s t : State} (h : State.Inv s)
    (ht : t = { s with
      done := t.done, progress := t.progress, cmdOverrun := t.cmdOverrun, wrIgnored := t.wrIgnored, doneIE := t.doneIE
      ovrIE := t.ovrIE, iv := t.iv, blk := t.blk, digest := t.digest, tblSel := t.tblSel, tblIdx := t.tblIdx
      draws := t.draws, dbufDraw := t.dbufDraw, response := t.response, host := t.host, inputs := t.inputs })
    (hdone : s.done = false → t.done = false) (hgen : s.phase = .gen → t.progress = s.progress)
    (hexec : ∀ i, s.phase = .exec i → t.progress.toNat ≤ blockCount i s) : State.Inv t := by
  rw [ht]
  exact
    { configLegal := h.configLegal
      dbufCanonical := h.dbufCanonical
      dbufInside := h.dbufInside
      tablesReady := h.tablesReady
      tablesInvalid := h.tablesInvalid
      scheduleCurrent := h.scheduleCurrent
      operandsKept := fun i hp => rejection_none_of_same_operands (h.operandsKept i hp) rfl rfl rfl rfl rfl
      runningRecord := fun i hp => by
        obtain ⟨hcmd, hd, herr, -⟩ := h.runningRecord i hp
        exact ⟨hcmd, hdone hd, herr, le_of_le_of_eq (hexec i hp) (Eq.symm (blockCount_congr i rfl))⟩
      generationRecord := fun hp => by
        obtain ⟨hcmd, hd, herr, hprog, hks⟩ := h.generationRecord hp
        exact ⟨hcmd, hdone hd, herr, (hgen hp).trans hprog, hks⟩ }

/-- The invariant says nothing about these fields. -/
theorem State.Inv.of_frame {s t : State} (h : State.Inv s)
    (ht : t = { s with
      cmdOverrun := t.cmdOverrun, wrIgnored := t.wrIgnored, doneIE := t.doneIE, ovrIE := t.ovrIE, iv := t.iv, blk := t.blk
      digest := t.digest, tblSel := t.tblSel, tblIdx := t.tblIdx, draws := t.draws, dbufDraw := t.dbufDraw
      response := t.response, host := t.host, inputs := t.inputs }) : State.Inv t := by
  rw [ht]
  refine h.of_record rfl id (fun _ => rfl) fun i hp => ?_
  obtain ⟨-, -, -, hle⟩ := h.runningRecord i hp
  exact hle

/-- What the invariant asks of an idle core. -/
theorem State.Inv.of_idle {s : State} (hp : s.phase = .idle) (hc : s.config.wf = true)
    (hm : Memory.Within s.config.dbufBytes s.dbuf) (ht : TablesReady s) (hk : s.ksValid = true → s.rk = expandKey s.key) :
    State.Inv s where
  configLegal := hc
  dbufCanonical := hm.1
  dbufInside := hm.2
  tablesReady _ _ := ht
  tablesInvalid h := by simp [hp] at h
  scheduleCurrent := hk
  operandsKept i h := by simp [hp] at h
  runningRecord i h := by simp [hp] at h
  generationRecord h := by simp [hp] at h

/-- What the invariant asks of a state in which every register has its reset value. -/
theorem State.Inv.of_atReset {s : State} (hs : AtReset s) (hc : s.config.wf = true)
    (hm : Memory.Within s.config.dbufBytes s.dbuf) : State.Inv s := by
  rw [hs]
  exact
    { configLegal := hc
      dbufCanonical := hm.1
      dbufInside := hm.2
      tablesReady := fun h => absurd rfl h
      tablesInvalid := fun _ => rfl
      scheduleCurrent := nofun
      operandsKept := nofun
      runningRecord := nofun
      generationRecord := fun _ => ⟨rfl, rfl, rfl, rfl, rfl⟩ }

theorem softReset_inv {s : State} (h : State.Inv s) : State.Inv (softReset s) :=
  .of_atReset (softReset_atReset s) h.configLegal (abortedDbuf_within s h.within h.operandsKept)

theorem hardReset_inv {s : State} (h : State.Inv s) : State.Inv (hardReset s) :=
  .of_atReset (hardReset_atReset s) h.configLegal (Memory.within_nil _)

theorem reject_inv {s : State} (h : State.Inv s) (hp : s.phase = .idle) (v : Word) (e : ErrCode) :
    State.Inv (reject v e s) :=
  .of_idle hp h.configLegal h.within (h.tablesReady_of_idle hp) h.scheduleCurrent

theorem overrun_inv {s : State} (h : State.Inv s) : State.Inv (overrun s) := h.of_frame rfl

theorem dropWrite_inv {s : State} (h : State.Inv s) : State.Inv (dropWrite s) := h.of_frame rfl

/-- Acceptance: only TBL_GEN touches the tables, and nothing touches an operand. -/
theorem accept_inv {i : Instr} {s : State} (h : State.Inv s) (hp : s.phase = .idle) (hr : rejection i s = none) :
    State.Inv (accept i (startOf i s)) := by
  rw [startOf_frame]
  exact
    { configLegal := h.configLegal
      dbufCanonical := h.dbufCanonical
      dbufInside := h.dbufInside
      tablesReady := fun _ hne => by
        have hi : i ≠ .tblGen := fun hi => hne (by rw [hi]; rfl)
        show (startOf i s).tblValid = true ∧ (startOf i s).tbl = Tables.generated
        rw [startOf_of_ne_tblGen hi]
        exact h.tablesReady_of_idle hp
      tablesInvalid := fun hg => by
        obtain rfl : i = .tblGen := by simpa using hg
        rfl
      scheduleCurrent := h.scheduleCurrent
      operandsKept := fun j hj => by
        obtain rfl : i = j := by simpa using hj
        exact rejection_none_of_same_operands hr rfl rfl rfl rfl rfl
      runningRecord := fun j hj => by
        obtain rfl : i = j := by simpa using hj
        exact ⟨rfl, rfl, rfl, Nat.zero_le _⟩
      generationRecord := fun hg => by simp at hg }

theorem effectOf_tablesReady {i : Instr} {s : State} (h : i ≠ .tblGen → TablesReady s) : TablesReady (effectOf i s) := by
  cases i with
  | tblGen => exact ⟨rfl, rfl⟩
  | _ => exact h (by simp)

theorem effectOf_scheduleCurrent {i : Instr} {s : State} (h : s.ksValid = true → s.rk = expandKey s.key) :
    (effectOf i s).ksValid = true → (effectOf i s).rk = expandKey (effectOf i s).key := by
  cases i with
  | keyExpand => exact fun _ => rfl
  | _ => exact h

theorem complete_inv {i : Instr} {s : State} (h : State.Inv s) (hp : s.phase = .exec i) (n : Nat) :
    State.Inv (complete n (effectOf i s)) := by
  have hc : (effectOf i s).config = s.config := by rw [effectOf_frame]
  have ht : TablesReady (effectOf i s) :=
    effectOf_tablesReady fun hi => h.tablesReady (by simp [hp]) (by simp [hp, hi])
  refine .of_idle rfl ?_ ?_ ht (effectOf_scheduleCurrent h.scheduleCurrent)
  · rw [complete_config, hc]
    exact h.configLegal
  · rw [complete_config, complete_dbuf, hc]
    exact effectOf_dbuf_within h.within (h.operandsKept i hp)

theorem finishGeneration_inv {s : State} (h : State.Inv s) : State.Inv (finishGeneration s) :=
  .of_idle rfl h.configLegal h.within ⟨rfl, rfl⟩ h.scheduleCurrent

theorem advance_inv {i : Instr} {s : State} (h : State.Inv s) (hp : s.phase = .exec i) : State.Inv (advance i s) := by
  obtain ⟨-, -, -, hle⟩ := h.runningRecord i hp
  have hprog := advance_progress_le hle
  rw [advance_frame]
  refine h.of_record rfl id (fun hg => by simp [hp] at hg) fun j hj => ?_
  obtain rfl : i = j := by simpa [hp] using hj
  exact hprog

theorem memWrite_inv {s : State} (h : State.Inv s) (hp : s.phase = .idle) {a : Nat} {bs : List Byte}
    (hb : a + bs.length ≤ s.config.dbufBytes) : State.Inv (s.memWrite a bs) :=
  .of_idle hp h.configLegal (h.within.writeBytes hb) (h.tablesReady_of_idle hp) h.scheduleCurrent

/-- DONE is 0 in every busy interval, and a STATUS write cannot set it. -/
theorem writeStatus_inv {s : State} (h : State.Inv s) (v : Word) : State.Inv (writeStatus v s) := by
  refine h.of_record rfl (fun hd => by simp [writeStatus, hd]) (fun _ => rfl) fun i hp => ?_
  obtain ⟨-, -, -, hle⟩ := h.runningRecord i hp
  exact hle

/-- A register write that is not dropped: an operand register is locked, so it is written on an idle core only (R109). -/
theorem writePlainReg_inv {s : State} (h : State.Inv s) {r : Reg} (hl : r.isLocked = true → s.phase = .idle) (v : Word) :
    State.Inv (writePlainReg r v s) := by
  cases r with
  | ctrl =>
    cases hv : v.getLsbD 0 with
    | true => exact writePlainReg_ctrl_set hv s ▸ softReset_inv h
    | false => exact (writePlainReg_ctrl_clear hv s).symm ▸ h
  | status => exact writeStatus_inv h v
  | irqEn | iv | blk | tblAddr => exact h.of_frame rfl
  | src | dst | len =>
    have hp := hl rfl
    exact .of_idle hp h.configLegal h.within (h.tablesReady_of_idle hp) h.scheduleCurrent
  | key =>
    have hp := hl rfl
    exact .of_idle hp h.configLegal h.within (h.tablesReady_of_idle hp) nofun
  | id | version | cmd | progress | digest | tblData | rk => exact h

theorem Change.inv {s t : State} (h : State.Inv s) (hc : Change s t) : State.Inv t := by
  cases hc with
  | nothing => exact h
  | rejected v e hp => exact reject_inv h hp v e
  | accepted i hp hr => exact accept_inv h hp hr
  | completed i hp => exact complete_inv h hp _
  | overran => exact overrun_inv h
  | dropped => exact dropWrite_inv h
  | register r v _ hl => exact writePlainReg_inv h (fun hr => (not_busy_iff s).1 (hl hr)) v
  | buffer a size v hb ha => exact memWrite_inv h ((not_busy_iff s).1 hb) (by rwa [beBytes_length])
  | generated => exact finishGeneration_inv h
  | advanced i hp => exact advance_inv h hp
  | powered => exact hardReset_inv h

/-- Settles O60: a step is one `Change` between two moves of the Host's side, which the invariant does not speak of. -/
theorem stepKeepsInvariant : Obligations.StepKeepsInvariant := by
  intro s t h hstep
  obtain ⟨rest, resp, host, u, rfl, hc⟩ := step_cases hstep
  have hu : State.Inv u := hc.inv (h.of_frame rfl)
  exact hu.of_frame rfl

/-- Settles O59: `State.reset` has its own reset values, and its DBUF lists nothing. -/
theorem resetSatisfiesInvariant : Obligations.ResetSatisfiesInvariant :=
  .of_atReset reset_atReset (by decide) (Memory.within_nil _)

end Sys2Proof.Machine
end

section
/-! PROOF. Who writes the results: RK, DIGEST, the tables and KS_VALID (R44, R45, R48, R52). -/

namespace Sys2Proof.Machine

/-- RK, DIGEST and the tables are as they were, and KS_VALID is not newly set. -/
structure KeepsResults (s t : State) : Prop where
  rk : t.rk = s.rk
  digest : t.digest = s.digest
  tbl : t.tbl = s.tbl
  ksValid : t.ksValid = true → s.ksValid = true

/-- The changes that touch a result: TBL_GEN is accepted, a command completes, the reset-time generation ends, a reset. -/
theorem Change.results {s t : State} (h : Change s t) :
    KeepsResults s t ∨ t = accept .tblGen (startTblGen s) ∨
      (∃ i n, s.phase = .exec i ∧ t = complete n (effectOf i s)) ∨ (s.phase = .gen ∧ t = finishGeneration s) ∨
      AtReset t := by
  cases h with
  | nothing | rejected | overran | dropped | buffer => exact .inl ⟨rfl, rfl, rfl, id⟩
  | accepted i =>
    by_cases hi : i = .tblGen
    · exact .inr (.inl (by rw [hi]; rfl))
    · rw [startOf_of_ne_tblGen hi]
      exact .inl ⟨rfl, rfl, rfl, id⟩
  | completed i hp => exact .inr (.inr (.inl ⟨i, _, hp, rfl⟩))
  | register r v =>
    rcases writePlainReg_cases r v s with hr | ⟨hks, hr⟩
    · exact .inr (.inr (.inr (.inr (hr ▸ softReset_atReset s))))
    · exact .inl ⟨by rw [hr], by rw [hr], by rw [hr], hks⟩
  | generated hp => exact .inr (.inr (.inr (.inl ⟨hp, rfl⟩)))
  | advanced i =>
    rw [advance_frame]
    exact .inl ⟨rfl, rfl, rfl, id⟩
  | powered => exact .inr (.inr (.inr (.inr (hardReset_atReset s))))

theorem effectOf_rk_of_ne {i : Instr} (h : i ≠ .keyExpand) (s : State) : (effectOf i s).rk = s.rk := by
  cases i with
  | keyExpand => exact absurd rfl h
  | _ => rfl

theorem effectOf_ksValid_of_ne {i : Instr} (h : i ≠ .keyExpand) (s : State) : (effectOf i s).ksValid = s.ksValid := by
  cases i with
  | keyExpand => exact absurd rfl h
  | _ => rfl

theorem effectOf_tbl_of_ne {i : Instr} (h : i ≠ .tblGen) (s : State) : (effectOf i s).tbl = s.tbl := by
  cases i with
  | tblGen => exact absurd rfl h
  | _ => rfl

theorem effectOf_digest_of_ne {i : Instr} (hr : i ≠ .sha256Raw) (hp : i ≠ .sha256Padded) (s : State) :
    (effectOf i s).digest = s.digest := by
  cases i with
  | sha256Raw => exact absurd rfl hr
  | sha256Padded => exact absurd rfl hp
  | _ => rfl

/-- Settles O23: of the changes that touch a result, a generation alone writes the tables; a reset and an accepted TBL_GEN
start one. -/
theorem onlyGenerationWritesTables : Obligations.OnlyGenerationWritesTables := by
  intro s t hstep
  obtain ⟨rest, resp, host, u, rfl, hc⟩ := step_cases hstep
  rcases hc.results with hk | rfl | ⟨i, n, hp, rfl⟩ | ⟨hp, rfl⟩ | hr
  · exact .inl hk.tbl
  · exact .inr (.inl rfl)
  · by_cases hi : i = .tblGen
    · subst hi
      exact .inr (.inr ⟨.inr hp, rfl, rfl, rfl⟩)
    · exact .inl (effectOf_tbl_of_ne hi _)
  · exact .inr (.inr ⟨.inl hp, rfl, rfl, rfl⟩)
  · exact .inr (.inl hr.tblValid_eq)

/-- Settles O26: of the changes that touch a result, a completing KEY_EXPAND and a reset alone write RK. -/
theorem onlyKeyExpandAndResetWriteRk : Obligations.OnlyKeyExpandAndResetWriteRk := by
  intro s t hstep
  obtain ⟨rest, resp, host, u, rfl, hc⟩ := step_cases hstep
  rcases hc.results with hk | rfl | ⟨i, n, hp, rfl⟩ | ⟨-, rfl⟩ | hr
  · exact .inl hk.rk
  · exact .inl rfl
  · by_cases hi : i = .keyExpand
    · subst hi
      exact .inr (.inl ⟨hp, rfl, rfl⟩)
    · exact .inl (effectOf_rk_of_ne hi _)
  · exact .inl rfl
  · exact .inr (.inr ⟨hr.phase_eq, hr.rk_eq⟩)

/-- Settles O42: of the changes that touch a result, a completing SHA command and a reset alone write DIGEST. -/
theorem onlyShaAndResetWriteDigest : Obligations.OnlyShaAndResetWriteDigest := by
  intro s t hstep
  obtain ⟨rest, resp, host, u, rfl, hc⟩ := step_cases hstep
  rcases hc.results with hk | rfl | ⟨i, n, hp, rfl⟩ | ⟨-, rfl⟩ | hr
  · exact .inl hk.digest
  · exact .inl rfl
  · by_cases hi : i = .sha256Raw ∨ i = .sha256Padded
    · refine .inr (.inl ⟨?_, rfl⟩)
      rcases hi with rfl | rfl
      · exact .inl hp
      · exact .inr hp
    · obtain ⟨hraw, hpad⟩ := not_or.1 hi
      exact .inl (effectOf_digest_of_ne hraw hpad _)
  · exact .inl rfl
  · exact .inr (.inr ⟨hr.phase_eq, hr.digest_eq⟩)

/-- Only a completing KEY_EXPAND sets KS_VALID (R44). -/
theorem ksValid_newly_set {s t : State} (hstep : step s = .next t) (hs : s.ksValid = false) (ht : t.ksValid = true) :
    s.phase = .exec .keyExpand ∧ t.phase = .idle := by
  obtain ⟨rest, resp, host, u, rfl, hc⟩ := step_cases hstep
  have hset : ∀ b : Bool, b = s.ksValid → b ≠ true := fun b hb => by simp [hb, hs]
  rcases hc.results with hk | rfl | ⟨i, n, hp, rfl⟩ | ⟨-, rfl⟩ | hr
  · exact absurd (hk.ksValid ht) (hset _ rfl)
  · exact absurd ht (hset _ rfl)
  · by_cases hi : i = .keyExpand
    · subst hi
      exact ⟨hp, rfl⟩
    · exact absurd ht (hset _ (effectOf_ksValid_of_ne hi _))
  · exact absurd ht (hset _ rfl)
  · exact absurd ht (by simp [hr.ksValid_eq])

end Sys2Proof.Machine
end

section
/-! PROOF. What a command leaves unchanged at any time (R40 to R43), and PROGRESS inside the busy interval (R39). -/

namespace Sys2Proof.Machine

/-- Settles O15: the record, the start and the effect of a command all leave these fields, by their frames. -/
theorem commandsKeepOperandRegisters : Obligations.CommandsKeepOperandRegisters := by
  intro i s t h
  rw [exec_eq_command] at h
  rcases command_cases i (startOf i) (effectOf i) s with ⟨-, e, -, hc⟩ | ⟨-, -, hc⟩ | ⟨-, hc⟩ | ⟨-, -, hc⟩ <;>
    obtain rfl := Host.Outcome.next.inj (hc.symm.trans h)
  · exact ⟨rfl, rfl, rfl, rfl, rfl, rfl, rfl, rfl, rfl, rfl, rfl, rfl, rfl⟩
  · rw [startOf_frame]
    exact ⟨rfl, rfl, rfl, rfl, rfl, rfl, rfl, rfl, rfl, rfl, rfl, rfl, rfl⟩
  · rw [effectOf_frame]
    exact ⟨rfl, rfl, rfl, rfl, rfl, rfl, rfl, rfl, rfl, rfl, rfl, rfl, rfl⟩
  · exact ⟨rfl, rfl, rfl, rfl, rfl, rfl, rfl, rfl, rfl, rfl, rfl, rfl, rfl⟩

/-- A step takes the oldest listed turn. -/
theorem step_of_inputs {s : State} {e : Event} {rest : List Event} (h : s.inputs = e :: rest) :
    step s = turn e { s with inputs := rest } := by
  simp only [step, h]

/-- Settles O14: a turn that does not finish the command changes nothing or is `advance`. -/
theorem progressCountsUpToBlockCount : Obligations.ProgressCountsUpToBlockCount := by
  intro s i a rest hp hle ha hin
  have hstep : step s = sequencer a { s with inputs := rest } := step_of_inputs hin
  rw [hstep]
  rcases sequencer_cases a { s with inputs := rest } with h | ⟨-, hfin, -⟩ | ⟨j, hj, -, h⟩ | ⟨j, -, hfin, -⟩
  · exact ⟨_, h, rfl, .inl rfl, hle⟩
  · exact absurd hfin ha
  · obtain rfl : i = j := Phase.exec.inj (hp.symm.trans hj)
    have hb : blockCount i { s with inputs := rest } = blockCount i s := blockCount_congr i rfl
    refine ⟨_, h, advance_frame i _, (advance_progress i _).imp id And.left, ?_⟩
    rw [← hb] at hle ⊢
    exact advance_progress_le hle
  · exact absurd hfin ha

end Sys2Proof.Machine
end

section
/-! PROOF. The address map of the registers (R32): `target` and `Reg.offset` invert each other. -/

namespace Sys2Proof.Machine

theorem Reg.offset_lt (r : Reg) : r.offset < 0x200 := by
  cases r <;> simp only [Reg.offset] <;> omega

theorem Reg.offset_mod_four (r : Reg) : r.offset % 4 = 0 := by
  cases r <;> simp only [Reg.offset] <;> omega

/-- A register answers at the word of its own offset. -/
theorem Reg.atWord_offset (r : Reg) : Reg.atWord (r.offset / 4) = some r := by
  cases r with
  | key k | iv k | blk k | digest k =>
    revert k
    decide
  | rk i =>
    revert i
    decide
  | _ => rfl

theorem Reg.atWord_eq_none {w : Nat} (h : 124 ≤ w) : Reg.atWord w = none := by
  have hne : ∀ n < 124, ¬ w = n := by omega
  have hlt : ∀ n ≤ 124, ¬ w < n := by omega
  simp [Reg.atWord, hne, hlt]

/-- The word a register answers at is that of its own offset: word by word below 124, and none answers from 124 up. -/
theorem Reg.offset_of_atWord {w : Nat} {r : Reg} (h : Reg.atWord w = some r) : r.offset = 4 * w := by
  have hall : ∀ w : Fin 124, ∀ r ∈ Reg.atWord w, r.offset = 4 * w.val := by decide
  rcases Nat.lt_or_ge w 124 with hw | hw
  · exact hall ⟨w, hw⟩ r h
  · rw [Reg.atWord_eq_none hw] at h
    cases h

/-- An access reaches a register exactly when it is a 32-bit access at the register's offset (R32, R105). -/
theorem target_reg_iff {c : Config} {off : Offset} {size : Size} {r : Reg} :
    target c off size = some (.reg r) ↔ off.toNat = r.offset ∧ size = .word := by
  unfold target
  constructor
  · intro h
    split at h
    · split at h
      · rename_i hw
        obtain ⟨r', hr, ⟨⟩⟩ := Option.map_eq_some_iff.1 h
        have := Reg.offset_of_atWord hr
        exact ⟨by omega, hw.1⟩
      · cases h
    · split at h <;> cases h
  · rintro ⟨ho, rfl⟩
    have hlt := r.offset_lt
    have hmod := r.offset_mod_four
    rw [ho, if_pos (by omega), if_pos ⟨rfl, hmod⟩, Reg.atWord_offset]
    rfl

theorem target_offset (c : Config) (r : Reg) : target c (BitVec.ofNat 17 r.offset) .word = some (.reg r) := by
  refine target_reg_iff.2 ⟨?_, rfl⟩
  have := r.offset_lt
  rw [BitVec.toNat_ofNat]
  omega

theorem Reg.offset_injective {r r' : Reg} (h : r.offset = r'.offset) : r = r' := by
  have hr := Reg.atWord_offset r
  rw [h, Reg.atWord_offset r'] at hr
  exact (Option.some.inj hr).symm

/-- Settles O43: the offsets are those of R32 by definition, and `target_reg_iff` is the rest. -/
theorem registerMapIsExact : Obligations.RegisterMapIsExact :=
  ⟨⟨rfl, rfl, rfl, rfl, rfl, rfl, rfl, rfl, rfl, rfl, rfl, rfl, fun _ => rfl, fun _ => rfl, fun _ => rfl, fun _ => rfl,
      fun _ => rfl⟩,
    fun c => ⟨target_offset c, fun _ _ _ => target_reg_iff.1, fun _ _ => Reg.offset_injective⟩⟩

end Sys2Proof.Machine
end

section
/-! PROOF. A step that is a bus transaction, by what the access reaches and whether the core is busy (R100 to R111). -/

namespace Sys2Proof.Machine

section Read
variable {s : State} {rest : List Event} {off : Offset} {size : Size}

/-- A read turn changes the list of turns and the response alone (R111). -/
theorem step_read (h : s.inputs = .bus (.read off size) :: rest) :
    step s = .next { s with inputs := rest, response := some (responseOf (.read off size) { s with inputs := rest }) } :=
  step_of_inputs h

theorem readReg_inputs (es : List Event) (r : Reg) : readReg { s with inputs := es } r = readReg s r := by
  cases r <;> rfl

/-- A register read answers `readReg`. -/
theorem step_read_reg {r : Reg} (h : s.inputs = .bus (.read off size) :: rest)
    (ht : target s.config off size = some (.reg r)) :
    step s = .next { s with inputs := rest, response := some (.okRead (readReg s r)) } := by
  have hresp : responseOf (.read off size) { s with inputs := rest } = .okRead (readReg s r) := by
    simp only [responseOf, ht, readReg_inputs]
  rw [step_read h, hresp]

theorem readReg_of_idle (hb : s.busy = false) (r : Reg) : readReg s r = regValue s r := by
  simp [readReg, hb]

theorem readReg_of_not_volatile {r : Reg} (hr : r.isVolatile = false) : readReg s r = regValue s r := by
  simp [readReg, hr]

/-- A register read placed as the next turn of an idle core answers the register's value. -/
theorem step_read_placed (r : Reg) (rest : List Event) (hp : s.phase = .idle) :
    step { s with inputs := .bus (.read (BitVec.ofNat 17 r.offset) .word) :: rest } =
      .next { s with inputs := rest, response := some (.okRead (regValue s r)) } := by
  rw [step_read_reg rfl (target_offset _ r), readReg_inputs, readReg_of_idle ((not_busy_iff _).2 hp)]

end Read

section Write
variable {s : State} {rest : List Event} {off : Offset} {size : Size} {v : Word}

theorem step_write_reg {r : Reg} (h : s.inputs = .bus (.write off size v) :: rest)
    (ht : target s.config off size = some (.reg r)) :
    step s = writeReg r v { s with inputs := rest, response := some .okWrite } := by
  rw [step_of_inputs h]
  simp only [turn, bus, responseOf, ht]

theorem step_write_dbuf {a : Nat} (h : s.inputs = .bus (.write off size v) :: rest)
    (ht : target s.config off size = some (.dbuf a)) :
    step s = .next (writeDbuf a size v { s with inputs := rest, response := some .okWrite }) := by
  rw [step_of_inputs h]
  simp only [turn, bus, responseOf, ht]

theorem writeDbuf_of_busy {a : Nat} (hb : s.busy = true) : writeDbuf a size v s = dropWrite s := if_pos hb

theorem writeReg_dropped {r : Reg} (hl : r.isLocked = true) (hb : s.busy = true) :
    writeReg r v s = .next (dropWrite s) := by
  have hr : r ≠ .cmd := by
    rintro rfl
    cases hl
  simp [writeReg, hr, hl, hb]

theorem writeReg_plain {r : Reg} (hr : r ≠ .cmd) (hl : r.isLocked = true → s.busy = false) :
    writeReg r v s = .next (writePlainReg r v s) := by
  unfold writeReg
  rw [if_neg hr, if_neg]
  intro hd
  obtain ⟨hlock, hb⟩ := Bool.and_eq_true_iff.1 hd
  exact absurd hb (by simp [hl hlock])

/-- A write to a register at its own offset that is not dropped. -/
theorem step_write_plainReg (r : Reg) (hr : r ≠ .cmd) (hl : r.isLocked = true → s.busy = false)
    (h : s.inputs = .bus (.write (BitVec.ofNat 17 r.offset) .word v) :: rest) :
    step s = .next (writePlainReg r v { s with inputs := rest, response := some .okWrite }) :=
  (step_write_reg h (target_offset s.config r)).trans (writeReg_plain hr hl)

end Write

/-- The locked registers of R32, listed. -/
theorem isLocked_iff (r : Reg) : r.isLocked = true ↔
    r ∈ [Reg.src, .dst, .len, .tblAddr] ∨ (∃ k, r = .key k) ∨ (∃ k, r = .iv k) ∨ ∃ k, r = .blk k := by
  cases r <;> simp [Reg.isLocked]

end Sys2Proof.Machine
end

section
/-! PROOF. The Host's register writes and reads, access by access (R33 to R50, R108, R109). -/

namespace Sys2Proof.Machine

theorem irqEnWord_eq_append (s : State) : irqEnWord s = 0#30 ++ BitVec.ofBool s.ovrIE ++ BitVec.ofBool s.doneIE := by
  unfold irqEnWord bitAt
  cases s.ovrIE <;> cases s.doneIE <;> decide

/-- Bit by bit: IDX below bit 8, SEL below bit 12, 0 above (R49). -/
theorem tblAddrWord_eq_append (s : State) : tblAddrWord s = 0#20 ++ s.tblSel ++ s.tblIdx := by
  apply BitVec.eq_of_getLsbD_eq
  intro i hi
  simp only [tblAddrWord, BitVec.getLsbD_or, BitVec.getLsbD_shiftLeft, BitVec.getLsbD_setWidth, BitVec.getLsbD_append]
  grind

/-- The 12 implemented bits of TBL_ADDR are the low 12 of the word written (R49). -/
theorem tblAddr_implemented_bits (v : Word) :
    0#20 ++ v.extractLsb' 8 4 ++ v.extractLsb' 0 8 = v &&& 0x00000FFF#32 := by
  have hmask : ∀ i < 32, (0x00000FFF#32).getLsbD i = decide (i < 12) := by decide
  apply BitVec.eq_of_getLsbD_eq
  intro i hi
  rw [BitVec.getLsbD_and, hmask i hi]
  simp only [BitVec.getLsbD_append, BitVec.getLsbD_extractLsb']
  grind

/-- The read-only registers of R32 ignore a write, on a busy core too (R33, R108). -/
theorem writePlainReg_readOnly {r : Reg}
    (hr : r ∈ [Reg.id, .version, .progress, .tblData] ∨ (∃ k, r = .digest k) ∨ ∃ k, r = .rk k) :
    r ≠ .cmd ∧ r.isLocked = false ∧ ∀ v s, writePlainReg r v s = s := by
  cases r with
  | id | version | progress | tblData | digest | rk => exact ⟨nofun, rfl, fun _ _ => rfl⟩
  | _ => simp at hr

/-- Settles O49: a busy core drops the write to a locked register or to DBUF, and a read-only register is not locked. -/
theorem busyWritesAreDropped : Obligations.BusyWritesAreDropped := by
  intro s rest off size v hin
  constructor
  · rintro hb (⟨a, ht⟩ | ⟨r, ht, hr⟩)
    · exact (step_write_dbuf hin ht).trans (congrArg Host.Outcome.next (writeDbuf_of_busy hb))
    · exact (step_write_reg hin ht).trans (writeReg_dropped ((isLocked_iff r).2 hr) hb)
  · rintro ⟨r, ht, hr⟩
    obtain ⟨hcmd, hlock, hsame⟩ := writePlainReg_readOnly hr
    rw [step_write_reg hin ht, writeReg_plain hcmd (by simp [hlock]), hsame]

/-- Settles O46: ID and VERSION are neither volatile nor writable. -/
theorem identificationIsConstant : Obligations.IdentificationIsConstant := by
  intro s rest
  refine ⟨fun h => step_read_reg h (target_offset _ .id), fun h => step_read_reg h (target_offset _ .version), ?_⟩
  rintro v off (rfl | rfl) h
  · exact step_write_plainReg .id nofun nofun h
  · exact step_write_plainReg .version nofun nofun h

/-- Settles O51: none of the three registers is locked. -/
theorem controlWritesTakeEffect : Obligations.ControlWritesTakeEffect := by
  intro s rest v
  refine ⟨step_write_plainReg .status nofun nofun, step_write_plainReg .irqEn nofun nofun, fun h hv => ?_⟩
  rw [step_write_plainReg .ctrl nofun nofun h, writePlainReg_ctrl_clear hv]

/-- Settles O45: a read turn records its response alone, and an idle core answers `regValue`. -/
theorem readsHaveNoSideEffect : Obligations.ReadsHaveNoSideEffect := by
  refine ⟨fun s rest off size h => ⟨_, step_read h⟩, fun s rest off size r hp h ht => ?_, fun s => ?_⟩
  · rw [step_read_reg h ht, readReg_of_idle ((not_busy_iff s).2 hp)]
  · exact ⟨rfl, rfl, rfl, irqEnWord_eq_append s, rfl, rfl, rfl, rfl, fun _ => rfl, fun _ => rfl, fun _ => rfl, fun _ => rfl,
      fun _ => rfl, tblAddrWord_eq_append s, rfl⟩

/-- Settles O27: a KEY register is locked, so the write reaches an idle core only; KS_VALID is the first check of each command
listed. -/
theorem keyWriteInvalidatesSchedule : Obligations.KeyWriteInvalidatesSchedule := by
  refine ⟨fun s rest k v h hp => ?_, fun s hk i hi => ?_, fun s t => ksValid_newly_set⟩
  · exact step_write_plainReg (.key k) nofun (fun _ => (not_busy_iff s).2 hp) h
  · have hfirst : ∀ i ∈ [Instr.aesEncBlk, .aesDecBlk, .ecbEnc, .ecbDec, .cbcEnc, .cbcDec, .ctrXform],
        ∃ cs, checksOf i = .keyValid :: cs := by simp [checksOf, blockModeChecks]
    obtain ⟨cs, hcs⟩ := hfirst i hi
    simp [rejection, hcs, firstFailure, Check.fails, Check.code, hk]

/-- A write to a locked register leaves the phase. -/
theorem writePlainReg_phase {r : Reg} (hl : r.isLocked = true) (v : Word) (s : State) :
    (writePlainReg r v s).phase = s.phase := by
  cases r with
  | src | dst | len | tblAddr | key | iv | blk => rfl
  | _ => cases hl

/-- A written register holds the word; TBL_ADDR holds its 12 implemented bits (R49). -/
theorem regValue_writePlainReg {r : Reg} (hl : r.isLocked = true) (v : Word) (s : State) :
    regValue (writePlainReg r v s) r = if r = .tblAddr then v &&& 0x00000FFF#32 else v := by
  cases r with
  | src | dst | len => rfl
  | key k | iv k | blk k => simp [regValue, writePlainReg, writeKey]
  | tblAddr =>
    exact (tblAddrWord_eq_append _).trans (tblAddr_implemented_bits v)
  | _ => cases hl

/-- The read after a write to an idle core's register. -/
theorem step_read_written {r : Reg} (hl : r.isLocked = true) (v : Word) (s : State) (rest : List Event)
    (hp : s.phase = .idle) :
    step { writePlainReg r v s with inputs := .bus (.read (BitVec.ofNat 17 r.offset) .word) :: rest } =
      .next { writePlainReg r v s with
        inputs := rest, response := some (.okRead (if r = .tblAddr then v &&& 0x00000FFF#32 else v)) } := by
  rw [step_read_placed r rest ((writePlainReg_phase hl v s).trans hp), regValue_writePlainReg hl]

/-- Settles O50: on an idle core no write is dropped, and none makes it busy, so the read after it answers `regValue`. -/
theorem writtenRegisterReadsBack : Obligations.WrittenRegisterReadsBack := by
  constructor
  · intro s rest v hp
    have hb : s.busy = false := (not_busy_iff s).2 hp
    exact ⟨step_write_plainReg .src nofun fun _ => hb, step_write_plainReg .dst nofun fun _ => hb,
      step_write_plainReg .len nofun fun _ => hb, fun k => step_write_plainReg (.key k) nofun fun _ => hb,
      fun k => step_write_plainReg (.iv k) nofun fun _ => hb, fun k => step_write_plainReg (.blk k) nofun fun _ => hb,
      step_write_plainReg .tblAddr nofun fun _ => hb⟩
  · intro s rest rest' r v hp hr hin
    have hl := (isLocked_iff r).2 hr
    have hcmd : r ≠ .cmd := by
      rintro rfl
      cases hl
    exact ⟨_, step_write_plainReg r hcmd (fun _ => (not_busy_iff s).2 hp) hin,
      step_read_written hl v { s with inputs := rest, response := some .okWrite } rest' hp⟩

end Sys2Proof.Machine
end

section
/-! PROOF. What a reset leaves: every register's reset value (R54), and DBUF after a soft reset (R603, R604). -/

namespace Sys2Proof.Machine

theorem AtReset.regValue_eq {t : State} (h : AtReset t) {r : Reg} (hr : r ≠ .tblData) :
    regValue t r = regValue State.reset r := by
  rw [h]
  cases r with
  | tblData => exact absurd rfl hr
  | _ => rfl

theorem regValue_reset {r : Reg} (hid : r ≠ .id) (hver : r ≠ .version) (hst : r ≠ .status) (htbl : r ≠ .tblData) :
    regValue State.reset r = 0#32 := by
  cases r with
  | id => exact absurd rfl hid
  | version => exact absurd rfl hver
  | status => exact absurd rfl hst
  | tblData => exact absurd rfl htbl
  | key | iv | blk | digest | rk => exact Vector.getElem_replicate _
  | irqEn | tblAddr => decide
  | _ => rfl

/-- Settles O55: each of the three states is `AtReset`. -/
theorem resetValues : Obligations.ResetValues := by
  intro s t ht
  have h : AtReset t := by
    rcases ht with rfl | rfl | rfl
    · exact reset_atReset
    · exact softReset_atReset s
    · exact hardReset_atReset s
  have hstatus : regValue t .status = regValue State.reset .status := h.regValue_eq nofun
  exact ⟨h.phase_eq, rfl, rfl, hstatus.trans (by decide),
    fun r hid hver hst htbl => (h.regValue_eq htbl).trans (regValue_reset hid hver hst htbl)⟩

/-- A soft reset changes a DBUF byte only inside the destination of an aborted command that writes DBUF (R604). -/
theorem dbufByte_softReset {s : State} {a : Nat}
    (h : (∀ i, s.phase = .exec i → writesDbuf i = false) ∨ a < s.dst.toNat ∨ s.dst.toNat + s.len.toNat ≤ a) :
    (softReset s).dbufByte a = s.dbufByte a := by
  have hread : Memory.read (abortedDbuf s) a = Memory.read s.dbuf a := by
    unfold abortedDbuf
    split
    · rfl
    · rfl
    · rename_i i hp
      split
      · rename_i hw
        have hout : a < s.dst.toNat ∨ s.dst.toNat + s.len.toNat ≤ a :=
          h.resolve_left fun hall => by simp [hall i hp] at hw
        rw [Memory.read_writeBytes, if_neg]
        rw [List.length_map, List.length_range]
        omega
      · rfl
  exact congrArg (fun o => o.getD (Config.freeDbufByte s.dbufDraw a)) hread

/-- The commands that write DBUF (R155), listed. -/
theorem writesDbuf_iff (i : Instr) :
    writesDbuf i = true ↔ i ∈ [Instr.ecbEnc, .ecbDec, .cbcEnc, .cbcDec, .ctrXform] := by
  cases i <;> decide

/-- Settles O56: a CTRL write with bit 0 = 1 is `softReset`, CTRL being locked in no phase. -/
theorem softResetKeepsDbuf : Obligations.SoftResetKeepsDbuf := by
  intro s rest v hin hv
  refine ⟨_, (step_write_plainReg .ctrl nofun nofun hin).trans (by rw [writePlainReg_ctrl_set hv]), rfl, fun a ha => ?_⟩
  refine (dbufByte_softReset (ha.imp_left fun hnone i hp => ?_)).trans rfl
  rw [Bool.eq_false_iff]
  exact fun hw => hnone i ((writesDbuf_iff i).1 hw) hp

end Sys2Proof.Machine
end

section
/-! PROOF. The table readout over generated tables (R50, R215). -/

namespace Sys2Proof.Machine

/-- Settles O21: `Tables.read` selects the RAM by SEL, and the entry at IDX is that of the byte IDX. -/
theorem tableReadoutIsGeneratedTable : Obligations.TableReadoutIsGeneratedTable := by
  intro sel idx
  refine ⟨?_, ?_, fun k hk => ?_, fun k hk => ?_, fun h => ?_⟩
  · rintro rfl
    simp [Tables.read, Tables.generated]
  · rintro rfl
    simp [Tables.read, Tables.generated]
  · rw [Tables.read, dif_neg (by omega), dif_pos (by omega)]
    simp [Tables.generated, hk]
  · rw [Tables.read, dif_neg (by omega), dif_pos (by omega)]
    have hsel : 6 + k.val - 2 = 4 + k.val := by omega
    simp [Tables.generated, hk, hsel]
  · rw [Tables.read, dif_neg (by omega), dif_neg (by omega)]

end Sys2Proof.Machine
end

section
/-! PROOF. Which accesses get BUS_ERROR, and that it has no effect (R105 to R107, R503). -/

namespace Sys2Proof.Machine

/-- An access reaches DBUF exactly when it is naturally aligned there and inside DBUF_BYTES (R102, R106). -/
theorem target_dbuf_iff {c : Config} {off : Offset} {size : Size} {a : Nat} :
    target c off size = some (.dbuf a) ↔
      off.toNat = 0x10000 + a ∧ a % size.bytes = 0 ∧ a + size.bytes ≤ c.dbufBytes := by
  unfold target
  constructor
  · intro h
    split at h
    · split at h
      · obtain ⟨r, -, hr⟩ := Option.map_eq_some_iff.1 h
        cases hr
      · cases h
    · split at h
      · rename_i hlow hin
        obtain ⟨rfl⟩ : off.toNat - 0x10000 = a := Target.dbuf.inj (Option.some.inj h)
        exact ⟨by omega, hin⟩
      · cases h
  · rintro ⟨ho, ha, hle⟩
    have hoff : off.toNat - 0x10000 = a := by omega
    rw [if_neg (by omega), hoff, if_pos ⟨ha, hle⟩]

/-- DBUF starts at a multiple of every access size, so an access is aligned in DBUF as it is in the aperture (R106). -/
theorem dbuf_base_aligned (size : Size) (a : Nat) : (0x10000 + a) % size.bytes = a % size.bytes := by
  cases size <;> simp only [Size.bytes] <;> omega

/-- Below DBUF an access that is narrow, misaligned or at no register's offset reaches nothing (R105, R107). -/
theorem target_none_of_register_area {c : Config} {off : Offset} {size : Size} (hoff : off.toNat < 0x10000)
    (h : size ≠ .word ∨ off.toNat % 4 ≠ 0 ∨ ∀ r : Reg, r.offset ≠ off.toNat) : target c off size = none := by
  rcases ht : target c off size with _ | (r | a)
  · rfl
  · obtain ⟨ho, hw⟩ := target_reg_iff.1 ht
    have hmod := r.offset_mod_four
    rcases h with hs | hm | hr
    · exact absurd hw hs
    · omega
    · exact absurd ho.symm (hr r)
  · have ho := (target_dbuf_iff.1 ht).1
    omega

/-- From DBUF's base up an access that is misaligned or not inside DBUF_BYTES reaches nothing (R106, R107). -/
theorem target_none_of_dbuf_area {c : Config} {off : Offset} {size : Size} (hoff : 0x10000 ≤ off.toNat)
    (h : off.toNat % size.bytes ≠ 0 ∨ c.dbufBytes < off.toNat - 0x10000 + size.bytes) : target c off size = none := by
  rcases ht : target c off size with _ | (r | a)
  · rfl
  · have ho := (target_reg_iff.1 ht).1
    have hlt := r.offset_lt
    omega
  · obtain ⟨ho, ha, hle⟩ := target_dbuf_iff.1 ht
    rw [ho, dbuf_base_aligned] at h
    omega

section BusError
variable {s : State} {rest : List Event} {off : Offset} {size : Size}

theorem step_read_busError (ht : target s.config off size = none) (h : s.inputs = .bus (.read off size) :: rest) :
    step s = .next { s with inputs := rest, response := some .busError } := by
  have hresp : responseOf (.read off size) { s with inputs := rest } = .busError := by
    simp only [responseOf, ht]
  rw [step_read h, hresp]

theorem step_write_busError {v : Word} (ht : target s.config off size = none)
    (h : s.inputs = .bus (.write off size v) :: rest) :
    step s = .next { s with inputs := rest, response := some .busError } := by
  rw [step_of_inputs h]
  simp only [turn, bus, responseOf, ht]

end BusError

/-- Settles O44: in both areas of the aperture such an access has no target, and a turn without target records BUS_ERROR. -/
theorem busErrorHasNoEffect : Obligations.BusErrorHasNoEffect := by
  intro s rest off size h
  have ht : target s.config off size = none := by
    rcases h with ⟨hlow, hbad⟩ | ⟨hhigh, hbad⟩
    · exact target_none_of_register_area hlow hbad
    · exact target_none_of_dbuf_area hhigh hbad
  exact ⟨step_read_busError ht, fun _ => step_write_busError ht⟩

end Sys2Proof.Machine
end

section
/-! PROOF. Byte strings as big-endian integers (R103): the bytes of a word, the word of the bytes, and that they agree. -/

namespace Sys2Proof.Machine

theorem getElem_beBytes (n : Nat) (v : Word) (k : Nat) (h : k < (beBytes n v).length) :
    (beBytes n v)[k] = (v >>> (8 * (n - 1 - k))).setWidth 8 := by
  simp [beBytes]

theorem beValue_concat (bs : List Byte) (b : Byte) : beValue (bs ++ [b]) = (beValue bs <<< 8) ||| b.setWidth 32 := by
  simp [beValue]

/-- A string of n bytes is an integer of 8n bits. -/
theorem beValue_lt (bs : List Byte) : (beValue bs).toNat < 256 ^ bs.length := by
  have hpow : ∀ n, 256 ^ n = 2 ^ (8 * n) := fun n => by rw [Nat.pow_mul]
  rw [hpow]
  induction bs using List.reverseRecOn with
  | nil => decide
  | append_singleton bs b ih =>
    rw [beValue_concat, List.length_append, List.length_singleton, Nat.mul_add, BitVec.toNat_or]
    apply Nat.or_lt_two_pow
    · have hshift : (beValue bs <<< 8).toNat ≤ (beValue bs).toNat * 2 ^ 8 := by
        rw [BitVec.toNat_shiftLeft, Nat.shiftLeft_eq]
        exact Nat.mod_le _ _
      rw [Nat.pow_add]
      omega
    · have hb : (b.setWidth 32).toNat < 2 ^ 8 := by
        rw [BitVec.toNat_setWidth_of_le (by decide)]
        exact b.isLt
      exact hb.trans_le (Nat.pow_le_pow_right (by decide) (by omega))

/-- Appending a byte moves each byte of the word, but the highest, up by one. -/
theorem shifted_byte_of_shift_or (w : Word) (b : Byte) {j : Nat} (hj : j < 3) :
    (((w <<< 8) ||| b.setWidth 32) >>> (8 * (j + 1))).setWidth 8 = (w >>> (8 * j)).setWidth 8 := by
  apply BitVec.eq_of_getLsbD_eq
  intro i hi
  have hlt : 8 * (j + 1) + i < 32 := by omega
  have hge : ¬ 8 * (j + 1) + i < 8 := by omega
  have hsub : 8 * (j + 1) + i - 8 = 8 * j + i := by omega
  have hb : b.getLsbD (8 * (j + 1) + i) = false := BitVec.getLsbD_of_ge _ _ (by omega)
  simp only [BitVec.getLsbD_setWidth, BitVec.getLsbD_ushiftRight, BitVec.getLsbD_or, BitVec.getLsbD_shiftLeft, hlt, hge,
    hsub, hb]
  simp

/-- The k-th byte of the integer of at most four bytes is the k-th byte of the string. -/
theorem byte_of_beValue (bs : List Byte) (h : bs.length ≤ 4) (k : Nat) (hk : k < bs.length) :
    (beValue bs >>> (8 * (bs.length - 1 - k))).setWidth 8 = bs[k] := by
  induction bs using List.reverseRecOn with
  | nil => cases hk
  | append_singleton bs b ih =>
    rw [List.length_append, List.length_singleton] at h hk
    simp only [beValue_concat, List.length_append, List.length_singleton, Nat.add_sub_cancel]
    by_cases hlast : k = bs.length
    · subst hlast
      simp
    · have hlt : k < bs.length := by omega
      have hpos : bs.length - k = bs.length - 1 - k + 1 := by omega
      rw [hpos, shifted_byte_of_shift_or _ _ (by omega), ih (by omega) hlt, List.getElem_append_left hlt]

end Sys2Proof.Machine
end

section
/-! PROOF. DBUF accesses of an idle core (R102, R103, R106). -/

namespace Sys2Proof.Machine

theorem Size.bytes_pos (size : Size) : 0 < size.bytes := by cases size <;> decide

theorem Size.bytes_le_four (size : Size) : size.bytes ≤ 4 := by cases size <;> decide

theorem Config.dbufBytes_le {c : Config} (h : c.wf = true) : c.dbufBytes ≤ 65536 :=
  Nat.le_of_ble_eq_true (Bool.and_eq_true_iff.1 h).2

theorem memRead_length (s : State) (a n : Nat) : (s.memRead a n).length = n := by simp [State.memRead]

theorem getElem_memRead (s : State) (a n k : Nat) (h : k < (s.memRead a n).length) :
    (s.memRead a n)[k] = s.dbufByte (a + k) := by simp [State.memRead]

section
variable {s : State} {rest : List Event} {off : Offset} {size : Size} {a : Nat}

theorem readDbuf_inputs (es : List Event) : readDbuf { s with inputs := es } a size = readDbuf s a size := rfl

/-- A DBUF read answers `readDbuf`. -/
theorem step_read_dbuf (h : s.inputs = .bus (.read off size) :: rest) (ht : target s.config off size = some (.dbuf a)) :
    step s = .next { s with inputs := rest, response := some (.okRead (readDbuf s a size)) } := by
  have hresp : responseOf (.read off size) { s with inputs := rest } = .okRead (readDbuf s a size) := by
    simp only [responseOf, ht, readDbuf_inputs]
  rw [step_read h, hresp]

theorem readDbuf_of_idle (hb : s.busy = false) : readDbuf s a size = beValue (s.memRead a size.bytes) := by
  simp [readDbuf, hb]

theorem writeDbuf_of_idle (hb : s.busy = false) (v : Word) :
    writeDbuf a size v s = s.memWrite a (beBytes size.bytes v) := by
  simp [writeDbuf, hb]

/-- A DBUF write to an idle core is `memWrite` of the bytes of its datum. -/
theorem step_write_dbuf_idle {v : Word} (hb : s.busy = false) (h : s.inputs = .bus (.write off size v) :: rest)
    (ht : target s.config off size = some (.dbuf a)) :
    step s = .next (State.memWrite { s with inputs := rest, response := some .okWrite } a (beBytes size.bytes v)) := by
  rw [step_write_dbuf h ht, writeDbuf_of_idle]
  exact hb

/-- A legal access inside DBUF_BYTES reaches DBUF at its own offset: the aperture holds every legal DBUF (R11, R102). -/
theorem target_dbuf_offset {c : Config} (hc : c.wf = true) (ha : a % size.bytes = 0) (hle : a + size.bytes ≤ c.dbufBytes) :
    target c (BitVec.ofNat 17 (0x10000 + a)) size = some (.dbuf a) := by
  refine target_dbuf_iff.2 ⟨?_, ha, hle⟩
  have hmax := Config.dbufBytes_le hc
  have hpos := size.bytes_pos
  rw [BitVec.toNat_ofNat]
  omega

end

/-- Settles O53: the write is `memWrite` of the bytes of its datum, and the read's value is `beValue` of the bytes there. -/
theorem dbufIsBigEndian : Obligations.DbufIsBigEndian := by
  intro s rest a size hc hp ha hle
  have ht := target_dbuf_offset hc ha hle
  have hb : s.busy = false := (not_busy_iff s).2 hp
  constructor
  · intro v hin
    refine ⟨_, step_write_dbuf_idle hb hin ht, rfl, ?_, ?_⟩
    · intro k hk
      rw [State.dbufByte_memWrite, dif_pos (by rw [beBytes_length]; omega), getElem_beBytes, Nat.add_sub_cancel_left]
    · intro x hx
      rw [State.dbufByte_memWrite, dif_neg (by rw [beBytes_length]; omega)]
      rfl
  · intro hin
    have hlen := memRead_length s a size.bytes
    refine ⟨_, (step_read_dbuf hin ht).trans (by rw [readDbuf_of_idle hb]), ?_, ?_⟩
    · simpa only [hlen] using beValue_lt (s.memRead a size.bytes)
    · intro k hk
      have hbyte := byte_of_beValue (s.memRead a size.bytes) (hlen.trans_le size.bytes_le_four) k (by omega)
      simpa only [hlen, getElem_memRead] using hbyte

end Sys2Proof.Machine
end

section
/-! PROOF. What a busy core answers to a read (R110). -/

namespace Sys2Proof.Machine

/-- The volatile registers of R32, listed. -/
theorem isVolatile_iff (r : Reg) : r.isVolatile = true ↔
    r ∈ [Reg.tblData] ∨ (∃ k, r = .iv k) ∨ (∃ k, r = .blk k) ∨ (∃ k, r = .digest k) ∨ ∃ k, r = .rk k := by
  cases r <;> simp [Reg.isVolatile]

section
variable {s : State} (hb : s.busy = true)
include hb

theorem readReg_of_busy (r : Reg) : readReg s r = if r.isVolatile then 0#32 else regValue s r := by
  simp [readReg, hb]

theorem readDbuf_of_busy (a : Nat) (size : Size) : readDbuf s a size = 0#32 := if_pos hb

end

/-- Settles O47: a busy core answers 0 for a volatile register and for DBUF. -/
theorem busyReadsReturnZero : Obligations.BusyReadsReturnZero := by
  intro s rest off size hb hin
  refine ⟨fun r ht => ?_, fun a ht => ?_⟩
  · rw [step_read_reg hin ht, readReg_of_busy hb]
    simp only [isVolatile_iff]
  · rw [step_read_dbuf hin ht, readDbuf_of_busy hb]

/-- A read's response depends on the parameters, the registers' read values and DBUF's read value alone. -/
theorem responseOf_read_congr {s t : State} {off : Offset} {size : Size} (hc : t.config = s.config)
    (hreg : ∀ r, readReg t r = readReg s r) (hdbuf : ∀ a, readDbuf t a size = readDbuf s a size) :
    responseOf (.read off size) t = responseOf (.read off size) s := by
  simp only [responseOf, hc, hreg, hdbuf]

/-- A register that is not volatile shows no result: its value is that of any state that differs in results alone. -/
theorem regValue_of_not_volatile {s t : State} {r : Reg} (hr : r.isVolatile = false)
    (h : t = { s with
      iv := t.iv, blk := t.blk, digest := t.digest, rk := t.rk, tbl := t.tbl, dbuf := t.dbuf, dbufDraw := t.dbufDraw,
      draws := t.draws }) : regValue t r = regValue s r := by
  rw [h]
  cases r with
  | iv | blk | digest | tblData | rk => cases hr
  | _ => rfl

/-- Settles O48: while busy the volatile registers and DBUF read 0 in both states, and no other register shows a result. -/
theorem busyReadsRevealNoResult : Obligations.BusyReadsRevealNoResult := by
  intro s s' off size hb h
  have hphase : s'.phase = s.phase := by rw [h]
  have hb' : s'.busy = true := (busy_iff s').2 (hphase ▸ (busy_iff s).1 hb)
  refine responseOf_read_congr (by rw [h]) (fun r => ?_) fun a => ?_
  · rw [readReg_of_busy hb', readReg_of_busy hb]
    cases hr : r.isVolatile with
    | true => rfl
    | false => exact regValue_of_not_volatile hr h
  · rw [readDbuf_of_busy hb', readDbuf_of_busy hb]

end Sys2Proof.Machine
end


section
/-! PROOF. The decoder and the encoder invert each other, and the words that are no command (R150 to R154). -/

namespace Sys2Proof

theorem encode_op_of_decodeOp {op : Byte} {i : Instr} (h : decodeOp op = some i) : (encode i).extractLsb' 0 8 = op := by
  unfold decodeOp at h
  repeat (split at h; · rename_i hop; cases h; exact hop.symm)
  cases h

/-- The opcode map read row by row: an OP decodes to `i` exactly when it is the low byte of `i`'s word (R151). -/
theorem decodeOp_eq_some_iff (op : Byte) (i : Instr) : decodeOp op = some i ↔ (encode i).extractLsb' 0 8 = op := by
  refine ⟨encode_op_of_decodeOp, ?_⟩
  rintro rfl
  cases i <;> rfl

/-- The OP column of R151, as R153 needs it. -/
def opcodes : List Byte :=
  [0x01#8, 0x10#8, 0x20#8, 0x21#8, 0x30#8, 0x31#8, 0x32#8, 0x33#8, 0x34#8, 0x40#8, 0x41#8]

/-- The opcodes of the OP column are the ones that decode. -/
theorem mem_opcodes_iff (op : Byte) : op ∈ opcodes ↔ ∃ i, decodeOp op = some i := by
  constructor
  · have hrows : ∀ op ∈ opcodes, (decodeOp op).isSome = true := by decide
    exact fun h => Option.isSome_iff_exists.1 (hrows op h)
  · rintro ⟨i, h⟩
    rw [← encode_op_of_decodeOp h]
    cases i <;> decide

theorem decode_eq_ok_iff_fields (v : Word) (i : Instr) :
    decode v = .ok i ↔ v.extractLsb' 8 24 = 0#24 ∧ decodeOp (v.extractLsb' 0 8) = some i := by
  unfold decode
  split_ifs with hr
  · cases decodeOp (v.extractLsb' 0 8) <;> simp [hr]
  · simp [hr]

/-- RSVD and OP together are the whole word (R150). -/
theorem word_eq_of_fields {v w : Word} (hr : v.extractLsb' 8 24 = w.extractLsb' 8 24)
    (ho : v.extractLsb' 0 8 = w.extractLsb' 0 8) : v = w := by
  have hsplit (x : Word) : x = x.extractLsb' 8 24 ++ x.extractLsb' 0 8 := by
    rw [BitVec.extractLsb'_append_extractLsb'_eq_extractLsb' (by decide : 8 = 0 + 8)]
    exact BitVec.extractLsb'_eq_self.symm
  rw [hsplit v, hsplit w, hr, ho]

theorem encode_rsvd (i : Instr) : (encode i).extractLsb' 8 24 = 0#24 := by
  cases i <;> rfl

/-- The decoder reads `i` from one word alone, the encoding of `i`. -/
theorem decode_eq_ok_iff (v : Word) (i : Instr) : decode v = .ok i ↔ v = encode i := by
  rw [decode_eq_ok_iff_fields, decodeOp_eq_some_iff]
  constructor
  · rintro ⟨hr, ho⟩
    exact word_eq_of_fields (hr.trans (encode_rsvd i).symm) ho.symm
  · rintro rfl
    exact ⟨encode_rsvd i, rfl⟩

theorem decode_encode (i : Instr) : decode (encode i) = .ok i := (decode_eq_ok_iff _ i).2 rfl

theorem tableWord_toNat (v : Word) : tableWord 32 v.toNat = v := by
  rw [tableWord, Nat.mod_eq_of_lt v.isLt, BitVec.ofNat_toNat, BitVec.setWidth_eq]

theorem decodeTableWord_eq_some_iff (nbits w : Nat) (i : Instr) :
    decodeTableWord nbits w = some i ↔ decode (tableWord nbits w) = .ok i := by
  unfold decodeTableWord
  cases decode (tableWord nbits w) <;> simp

/-- A word is no command when RSVD is not 0 or OP is in no row of the map (R153). -/
theorem illegal_iff_fields (v : Word) :
    (∀ i, decode v ≠ .ok i) ↔ v.extractLsb' 8 24 ≠ 0#24 ∨ v.extractLsb' 0 8 ∉ opcodes := by
  rw [mem_opcodes_iff, ← not_and_or, ← exists_and_left, not_exists]
  simp only [ne_eq, decode_eq_ok_iff_fields]

/-- Settles O2: the only word that decodes to a command is its encoding, and the table's numbering of it is that word. -/
theorem decodeAndEncodeAgree : Obligations.DecodeAndEncodeAgree := by
  refine ⟨decode_encode, fun v i h => ((decode_eq_ok_iff v i).1 h).symm, fun i => ?_⟩
  rw [decodeTableWord_eq_some_iff, tableWord_toNat]
  exact decode_encode i

/-- Settles O1: the rows of the map are the encodings. -/
theorem opcodeMapIsExact : Obligations.OpcodeMapIsExact := by
  intro v i
  rw [decode_eq_ok_iff]
  cases i <;> simp [encode]

/-- Settles O3: each of the six words is, written out, the encoding of its command. -/
theorem writtenOutWordsDecode : Obligations.WrittenOutWordsDecode :=
  ⟨decode_encode .tblGen, decode_encode .keyExpand, decode_encode .aesDecBlk, decode_encode .cbcEnc,
    decode_encode .ctrXform, decode_encode .sha256Padded⟩

end Sys2Proof
end

section
/-! PROOF. A CMD write and a Sequencer turn as a step: the word issued, the running command carried out (R160 to R167). -/

namespace Sys2Proof.Machine

section Issue
variable {s : State} {v : Word}

theorem issue_of_busy (hb : s.busy = true) : issue v s = .next (overrun s) := if_pos hb

theorem issue_decoded {i : Instr} (hb : s.busy = false) (hd : decode v = .ok i) : issue v s = exec i s := by
  simp [issue, hb, hd]

theorem issue_illegal (hb : s.busy = false) (hd : ∀ i, decode v ≠ .ok i) :
    issue v s = .next (reject v .eOpcode s) := by
  rcases issue_cases v s with ⟨hb', -⟩ | ⟨-, -, h⟩ | ⟨-, i, hi, -⟩
  · exact absurd hb' (by simp [hb])
  · exact h
  · exact absurd hi (hd i)

/-- A 32-bit write to CMD issues its word, the response OK recorded (R160). -/
theorem step_write_cmd {rest : List Event} (h : s.inputs = .bus (.write 0x00C#17 .word v) :: rest) :
    step s = issue v { s with inputs := rest, response := some .okWrite } :=
  step_write_reg h (target_offset s.config .cmd)

end Issue

/-- Settles O4: the decoder's two fields, and a CMD write of a word it refuses. -/
theorem illegalWordIsRejected : Obligations.IllegalWordIsRejected := fun v =>
  ⟨illegal_iff_fields v, fun s _ hin hp hd => (step_write_cmd hin).trans (issue_illegal ((not_busy_iff s).2 hp) hd)⟩

/-- Settles O12: a busy core answers every CMD write by `overrun`. -/
theorem overrunSetsOnlyItsFlag : Obligations.OverrunSetsOnlyItsFlag := fun _ _ _ hin hb =>
  (step_write_cmd hin).trans (issue_of_busy hb)

theorem sequencer_finish_of_exec {i : Instr} {s : State} (h : s.phase = .exec i) : sequencer .finish s = exec i s := by
  simp only [sequencer, h]

/-- Ending the busy interval leaves the core idle (R162, R602). -/
theorem settle_idle (s : State) : (settle s).phase = .idle := by
  unfold settle
  cases hp : s.phase with
  | idle => simp only [sequencer, hp]
  | gen => simp only [sequencer, hp]; rfl
  | exec i => rw [sequencer_finish_of_exec hp, exec_running hp]; rfl

/-- Settles O5: a CMD write to an idle core issues its word, and `withFetchWord` places one after `settle`. -/
theorem stepRunsDecodedCommand : Obligations.StepRunsDecodedCommand := by
  have hwrite : ∀ (s : State) (rest : List Event) (v : Word) (i : Instr),
      s.inputs = .bus (.write 0x00C#17 .word v) :: rest → s.busy = false → decode v = .ok i →
        step s = exec i { s with inputs := rest, response := some .okWrite } :=
    fun _ _ _ _ hin hb hd => (step_write_cmd hin).trans (issue_decoded hb hd)
  refine ⟨hwrite, fun s nbits w i hd => ?_⟩
  have hb : (settle s).busy = false := (not_busy_iff _).2 (settle_idle s)
  exact ⟨hb, hwrite (s.withFetchWord nbits w) _ _ _ rfl hb ((decodeTableWord_eq_some_iff ..).1 hd)⟩

theorem step_of_no_inputs {s : State} (h : s.inputs = []) : step s = turn (defaultEvent s) s := by
  simp only [step, h]

theorem defaultEvent_of_busy {s : State} (hb : s.busy = true) : defaultEvent s = .sequencer .finish := if_pos hb

/-- Settles O6: both turns are the finishing turn of the Sequencer. -/
theorem sequencerRunsTheRunningCommand : Obligations.SequencerRunsTheRunningCommand := by
  intro s i hp
  refine ⟨fun rest hin => (step_of_inputs hin).trans (sequencer_finish_of_exec hp), fun hin => ?_⟩
  have hb : s.busy = true := (busy_iff s).2 (by simp [hp])
  rw [step_of_no_inputs hin, defaultEvent_of_busy hb]
  exact sequencer_finish_of_exec hp

/-- Settles O9: acceptance is `accept`, and only TBL_GEN has a start of its own. -/
theorem acceptanceStartsBusyInterval : Obligations.AcceptanceStartsBusyInterval := by
  intro i s hp hr
  refine ⟨_, exec_accepted hp hr, rfl, fun hi => ?_, fun hi => ?_⟩
  · rw [startOf_of_ne_tblGen hi]
    rfl
  · subst hi
    rfl

/-- Settles O10: a failing check and an illegal word both end in `reject`. -/
theorem rejectionChangesOnlyTheRecord : Obligations.RejectionChangesOnlyTheRecord :=
  ⟨fun _ _ _ hp hr => ⟨_, exec_rejected hp hr, rfl, (not_busy_iff _).2 hp⟩,
    fun _ s hp hd => ⟨_, issue_illegal ((not_busy_iff s).2 hp) hd, rfl, (not_busy_iff _).2 hp⟩⟩

/-- Settles O13: the accepted command runs, so the second `exec` completes it; LEN, and so the block count, stays. -/
theorem acceptedCommandCompletes : Obligations.AcceptedCommandCompletes := by
  intro i s hp hr
  have hacc := exec_accepted hp hr
  have hcount : blockCount i (accept i (startOf i s)) = blockCount i s := by
    rw [startOf_frame]
    exact blockCount_congr i rfl
  refine ⟨_, _, hacc, exec_running rfl, rfl, rfl, rfl, rfl, ?_, ?_⟩
  · rw [effectOf_frame]
    rfl
  · rw [hcount]
    rfl

end Sys2Proof.Machine
end

section
/-! PROOF. The code of the first failing check (R166, R168 to R173). -/

namespace Sys2Proof.Machine

@[simp] theorem Check.fails_keyValid (s : State) : Check.keyValid.fails s = true ↔ s.ksValid = false := by
  simp [Check.fails]

@[simp] theorem Check.fails_lenMultiple (u : Nat) (s : State) :
    (Check.lenMultiple u).fails s = true ↔ s.len.toNat % u ≠ 0 := by
  simp [Check.fails]

@[simp] theorem Check.fails_aligned (x : Operand) (s : State) :
    (Check.aligned x).fails s = true ↔ x.offset s % 4 ≠ 0 := by
  simp [Check.fails]

@[simp] theorem Check.fails_inRange (x : Operand) (s : State) :
    (Check.inRange x).fails s = true ↔ x.offset s + s.len.toNat > s.config.dbufBytes := by
  simp [Check.fails]

@[simp] theorem Check.fails_noOverlap (s : State) : Check.noOverlap.fails s = true ↔
    s.len.toNat > 0 ∧ s.src.toNat ≠ s.dst.toNat ∧ s.src.toNat < s.dst.toNat + s.len.toNat ∧
      s.dst.toNat < s.src.toNat + s.len.toNat := by
  simp [Check.fails, BitVec.toNat_inj]

/-- The commands that need a key schedule (R169). -/
abbrev Keyed (i : Instr) : Prop := i ∈ [Instr.aesEncBlk, .aesDecBlk, .ecbEnc, .ecbDec, .cbcEnc, .cbcDec, .ctrXform]

/-- The commands over whole blocks of 16 bytes (R172). -/
abbrev Chained (i : Instr) : Prop := i ∈ [Instr.ecbEnc, .ecbDec, .cbcEnc, .cbcDec]

/-- The commands with a destination region (R155). -/
abbrev UsesDst (i : Instr) : Prop := Chained i ∨ i = .ctrXform

/-- The commands with a source region (R155). -/
abbrev UsesSrc (i : Instr) : Prop := UsesDst i ∨ i = .sha256Raw ∨ i = .sha256Padded

/-- R168's table read column by column, in R166's order: the checks of one code stand together in a command's list, so the
tests of one code merge (`ite_or`), and a column that the command does not have drops out. -/
theorem rejection_eq_ite (i : Instr) (s : State) : rejection i s =
    if Keyed i ∧ s.ksValid = false then some .eNoKey
    else if (Chained i ∧ s.len.toNat % 16 ≠ 0) ∨ (i = .sha256Padded ∧ s.len.toNat % 64 ≠ 0) then some .eLen
    else if (UsesSrc i ∧ s.src.toNat % 4 ≠ 0) ∨ (UsesDst i ∧ s.dst.toNat % 4 ≠ 0) then some .eAlign
    else if (UsesSrc i ∧ s.src.toNat + s.len.toNat > s.config.dbufBytes) ∨
      (UsesDst i ∧ s.dst.toNat + s.len.toNat > s.config.dbufBytes) then some .eRange
    else if UsesDst i ∧ s.len.toNat > 0 ∧ s.src.toNat ≠ s.dst.toNat ∧ s.src.toNat < s.dst.toNat + s.len.toNat ∧
      s.dst.toNat < s.src.toNat + s.len.toNat then some .eOverlap
    else none := by
  cases i <;>
    simp only [rejection, checksOf, blockModeChecks, firstFailure, Check.code, Operand.offset, Check.fails_keyValid,
      Check.fails_lenMultiple, Check.fails_aligned, Check.fails_inRange, Check.fails_noOverlap, Keyed, Chained, UsesDst,
      UsesSrc, List.mem_cons, List.not_mem_nil, reduceCtorEq, or_false, false_or, or_true, false_and, true_and,
      or_self, if_false, ite_or]

/-- Settles O11: the obligation's nested clauses are the branches of `rejection_eq_ite`. -/
theorem checksFollowTheProtocol : Obligations.ChecksFollowTheProtocol := by
  intro i s
  rw [rejection_eq_ite]
  dsimp only
  refine ⟨fun h => if_pos h, fun hkey => ?_⟩
  rw [if_neg hkey]
  refine ⟨fun h => if_pos h, fun hlen => ?_⟩
  rw [if_neg hlen]
  refine ⟨fun h => if_pos h, fun halign => ?_⟩
  rw [if_neg halign]
  refine ⟨fun h => if_pos h, fun hrange => ?_⟩
  rw [if_neg hrange]
  exact ⟨fun h => if_pos h, fun hoverlap => if_neg hoverlap⟩

end Sys2Proof.Machine
end

section
/-! PROOF. The bytes of IV as words and as the counter (R15, R46, R313, R357). -/

namespace Sys2Proof.Machine

@[simp] theorem getLsbD_byteOf (x : Word) (j k : Nat) :
    (byteOf x j).getLsbD k = (decide (k < 8) && x.getLsbD (24 - 8 * j + k)) := by
  simp [byteOf]

theorem wordOf_eq_append (b0 b1 b2 b3 : Byte) : wordOf b0 b1 b2 b3 = b0 ++ b1 ++ b2 ++ b3 := by
  apply BitVec.eq_of_getLsbD_eq
  intro k hk
  simp only [wordOf, BitVec.getLsbD_or, BitVec.getLsbD_shiftLeft, BitVec.getLsbD_setWidth, BitVec.getLsbD_append]
  grind

theorem byteOf_eq_extract (x : Word) (j : Nat) : byteOf x j = x.extractLsb' (24 - 8 * j) 8 := rfl

theorem wordOf_byteOf (x : Word) : wordOf (byteOf x 0) (byteOf x 1) (byteOf x 2) (byteOf x 3) = x := by
  rw [wordOf_eq_append]
  simp only [byteOf_eq_extract]
  rw [BitVec.extractLsb'_append_extractLsb'_eq_extractLsb' (by decide),
    BitVec.extractLsb'_append_extractLsb'_eq_extractLsb' (by decide),
    BitVec.extractLsb'_append_extractLsb'_eq_extractLsb' (by decide)]
  exact BitVec.extractLsb'_eq_self

theorem wordsOfBytes_bytesOfWords (w : Vector Word 4) : wordsOfBytes (bytesOfWords w) = w := by
  apply Vector.ext
  intro c hc
  simp [wordsOfBytes, bytesOfWords, Nat.mul_add_div, wordOf_byteOf]

/-- Bit `b` of the counter lies in word 3 - b / 32 of IV (R46). -/
theorem getLsbD_ivInt (iv : Vector Word 4) {b : Nat} (hb : b < 128) :
    (ivInt iv).getLsbD b = (iv[3 - b / 32]).getLsbD (b % 32) := by
  have hword : ∀ (k : Nat) (hk : k < 4), b / 32 = 3 - k →
      (iv[3 - b / 32]).getLsbD (b % 32) = iv[k].getLsbD (b - 32 * (3 - k)) := by
    intro k hk hq
    have hidx : 3 - b / 32 = k := by omega
    have hbit : b % 32 = b - 32 * (3 - k) := by omega
    simp only [hidx, hbit]
  simp only [ivInt, BitVec.getLsbD_append]
  split_ifs with h3 h2 h1
  · exact (hword 3 (by omega) (by omega)).symm
  · exact (hword 2 (by omega) (by omega)).symm
  · rw [hword 1 (by omega) (by omega), Nat.sub_sub]
  · rw [hword 0 (by omega) (by omega), Nat.sub_sub, Nat.sub_sub]

theorem counterBlock_ivInt (iv : Vector Word 4) : counterBlock (ivInt iv) = bytesOfWords iv := by
  apply Vector.ext
  intro i hi
  apply BitVec.eq_of_getLsbD_eq
  intro j hj
  have hidx : 3 - (8 * (15 - i) + j) / 32 = i / 4 := by omega
  have hbit : (8 * (15 - i) + j) % 32 = 24 - 8 * (i % 4) + j := by omega
  simp only [counterBlock, bytesOfWords, Vector.getElem_ofFn, getLsbD_byteOf, BitVec.getLsbD_setWidth,
    BitVec.getLsbD_ushiftRight]
  rw [getLsbD_ivInt iv (by omega)]
  simp only [hidx, hbit]

end Sys2Proof.Machine
end

section
/-! PROOF. LEN = 0 (R174): no length check fails, and the commands that read LEN process no block. -/

namespace Sys2Proof.Machine

/-- A reported code is that of a listed check that fails (R166). -/
theorem exists_fails_of_firstFailure {cs : List Check} {s : State} {e : ErrCode} (h : firstFailure cs s = some e) :
    ∃ c ∈ cs, c.fails s = true ∧ c.code = e := by
  induction cs with
  | nil => cases h
  | cons c cs ih =>
    unfold firstFailure at h
    split at h
    · rename_i hc
      exact ⟨c, List.mem_cons_self, hc, Option.some.inj h⟩
    · obtain ⟨d, hd, hf⟩ := ih h
      exact ⟨d, List.mem_cons_of_mem c hd, hf⟩

section ZeroLength
variable {s : State} (h : s.len = 0#32)
include h

theorem lenMultiple_passes_of_len_zero (u : Nat) : (Check.lenMultiple u).fails s = false := by
  simp [Check.fails, h]

/-- A mode command over no data counts no block and writes back DBUF and IV as they were. -/
theorem modeCommand_of_len_zero {i : Instr} (hi : i ∈ [Instr.ecbEnc, .ecbDec, .cbcEnc, .cbcDec, .ctrXform]) :
    blockCount i s = 0 ∧ effectOf i s = s := by
  simp only [List.mem_cons, List.not_mem_nil, or_false] at hi
  have hn : blockCount i s = 0 := by
    rcases hi with rfl | rfl | rfl | rfl | rfl <;> simp [blockCount, h]
  refine ⟨hn, ?_⟩
  rcases hi with rfl | rfl | rfl | rfl | rfl
  · simp only [effectOf, ecbEncEffect, hn, ecbRun]
  · simp only [effectOf, ecbDecEffect, hn, ecbRun]
  · simp only [effectOf, cbcEncEffect, hn, cbcEncRun, wordsOfBytes_bytesOfWords]
  · simp only [effectOf, cbcDecEffect, hn, cbcDecRun, wordsOfBytes_bytesOfWords]
  · simp only [effectOf, ctrXformEffect, hn, ctrRun, counterBlock_ivInt, wordsOfBytes_bytesOfWords]

theorem effectOf_sha256Raw_of_len_zero : effectOf .sha256Raw s = { s with digest := sha256 [] } := by
  simp [effectOf, sha256RawEffect, State.memRead, h]

theorem effectOf_sha256Padded_of_len_zero : effectOf .sha256Padded s = { s with digest := shaH0 } := by
  simp [effectOf, sha256PaddedEffect, blockCount, h, shaBlocks]

end ZeroLength

/-- Settles O16: a reported E_LEN would be a failing length check, and the running command completes over no data. -/
theorem zeroLengthIsLegal : Obligations.ZeroLengthIsLegal := by
  refine ⟨fun i s h hr => ?_, fun i s hp h => ⟨fun hi => ?_, ?_, ?_⟩⟩
  · obtain ⟨c, -, hf, hc⟩ := exists_fails_of_firstFailure hr
    cases c with
    | lenMultiple u => exact absurd hf (by simp [lenMultiple_passes_of_len_zero h])
    | _ => cases hc
  · obtain ⟨hcount, heffect⟩ := modeCommand_of_len_zero h hi
    rw [exec_running hp, hcount, heffect]
    rfl
  · rintro rfl
    rw [exec_running hp, effectOf_sha256Raw_of_len_zero h]
    simp [complete, blockCount, paddedBlocks, h]
  · rintro rfl
    rw [exec_running hp, effectOf_sha256Padded_of_len_zero h]
    simp [complete, blockCount, h]

end Sys2Proof.Machine
end

section
/-! PROOF. A line of the Host's program as a step (R157). -/

namespace Sys2Proof.Machine

/-- No change of the core moves the Host. -/
theorem Change.host_eq {s t : State} (h : Change s t) : t.host = s.host := by
  cases h with
  | accepted i => rw [startOf_frame]; rfl
  | completed i => rw [effectOf_frame]; rfl
  | advanced i => rw [advance_frame]
  | register r v =>
    rcases writePlainReg_cases r v s with hr | ⟨-, hr⟩
    · rw [hr]; rfl
    · rw [hr]
  | _ => rfl

/-- Settles O54: the Host's part follows the transaction, which has left the Host as it was. -/
theorem hostLineIsItsTransaction : Obligations.HostLineIsItsTransaction := by
  intro s rest t hin ht
  obtain ⟨u, hu, hc⟩ := bus_change t { s with inputs := rest }
  have hhost : u.host = s.host := hc.host_eq
  refine ⟨u, hu, ?_⟩
  rw [step_of_inputs hin]
  simp only [turn, hostLine, ht, hu, hostAfter, hhost]

end Sys2Proof.Machine
end

section
/-! PROOF. The product of GF(2^8) (R200 to R202): the loop respects sums and xtime in its first
factor, so products commute, and an inverse is unique (R203). -/

namespace Sys2Proof.Machine

theorem xtime_xor (a b : Byte) : xtime (a ^^^ b) = xtime a ^^^ xtime b := by
  have hreduce : (if (a ^^^ b).getLsbD 7 then 0x1B#8 else 0x00#8) =
      (if a.getLsbD 7 then 0x1B#8 else 0x00#8) ^^^ (if b.getLsbD 7 then 0x1B#8 else 0x00#8) := by
    rw [BitVec.getLsbD_xor]
    cases a.getLsbD 7 <;> cases b.getLsbD 7 <;> rfl
  simp only [xtime, BitVec.shiftLeft_xor_distrib, hreduce]
  ac_rfl

/-- One bit of the multiplier adds the multiplicand or nothing, which respects sums. -/
theorem ite_xor_xor (c : Bool) (p q a b : Byte) :
    (if c then p ^^^ q ^^^ (a ^^^ b) else p ^^^ q) = (if c then p ^^^ a else p) ^^^ (if c then q ^^^ b else q) := by
  cases c
  · rfl
  · simp only [if_true]
    ac_rfl

theorem gmulLoop_xor (n : Nat) (a b c p q : Byte) :
    gmulLoop n (a ^^^ b) c (p ^^^ q) = gmulLoop n a c p ^^^ gmulLoop n b c q := by
  induction n generalizing a b c p q with
  | zero => rfl
  | succ n ih => rw [gmulLoop, xtime_xor, ite_xor_xor, ih]; rfl

theorem gmulLoop_xtime (n : Nat) (a c p : Byte) : gmulLoop n (xtime a) c (xtime p) = xtime (gmulLoop n a c p) := by
  induction n generalizing a c p with
  | zero => rfl
  | succ n ih => rw [gmulLoop, gmulLoop, ← ih, apply_ite xtime, xtime_xor]

theorem gmul_xor_left (a b c : Byte) : gmul (a ^^^ b) c = gmul a c ^^^ gmul b c := gmulLoop_xor 8 a b c 0x00#8 0x00#8

theorem gmul_xtime_left (a c : Byte) : gmul (xtime a) c = xtime (gmul a c) := gmulLoop_xtime 8 a c 0x00#8

theorem gmul_zero_left (c : Byte) : gmul 0x00#8 c = 0x00#8 := by
  have h := gmul_xor_left 0x00#8 0x00#8 c
  rwa [BitVec.xor_self, BitVec.xor_self] at h

/-- Multiplication by `c` from the right passes through the loop, since it respects sums and xtime. -/
theorem gmul_gmulLoop (n : Nat) (a b c p : Byte) : gmul (gmulLoop n a b p) c = gmulLoop n (gmul a c) b (gmul p c) := by
  induction n generalizing a b p with
  | zero => rfl
  | succ n ih => rw [gmulLoop, gmulLoop, ih, gmul_xtime_left, apply_ite (gmul · c), gmul_xor_left]

theorem gmul_right_comm (a b c : Byte) : gmul (gmul a b) c = gmul (gmul a c) b := by
  have h := gmul_gmulLoop 8 a b c 0x00#8
  rwa [gmul_zero_left] at h

theorem gmul_one_left : ∀ b : Byte, gmul 0x01#8 b = b := by decide +kernel

theorem gmul_comm (a b : Byte) : gmul a b = gmul b a := by
  have h := gmul_right_comm 0x01#8 a b
  rwa [gmul_one_left, gmul_one_left] at h

/-- Every nonzero byte has a^255 = 1: the check, byte by byte, that the polynomial of R201 gives a field. -/
theorem gmul_ginv : ∀ a : Byte, a ≠ 0x00#8 → gmul a (ginv a) = 0x01#8 := by decide +kernel

theorem ginv_zero : ginv 0x00#8 = 0x00#8 := by decide +kernel

/-- A right inverse is unique, because products commute: b = (a · ginv a) · b = (a · b) · ginv a = ginv a. -/
theorem eq_ginv_of_gmul_eq_one {a b : Byte} (ha : a ≠ 0x00#8) (h : gmul a b = 0x01#8) : b = ginv a :=
  calc b = gmul (gmul a (ginv a)) b := by rw [gmul_ginv a ha, gmul_one_left]
    _ = gmul (gmul a b) (ginv a) := gmul_right_comm a (ginv a) b
    _ = ginv a := by rw [h, gmul_one_left]

/-- Settles O17: `ginv a` is an inverse of `a`, and there is no other. -/
theorem ginvIsTheUniqueInverse : Obligations.GinvIsTheUniqueInverse :=
  ⟨ginv_zero, fun a _ ha => ⟨eq_ginv_of_gmul_eq_one ha, fun hb => hb ▸ gmul_ginv a ha⟩⟩

end Sys2Proof.Machine
end

section
/-! PROOF. SBOX is a bijection with inverse INV_SBOX (R204 to R206), and the properties of R207. -/

namespace Sys2Proof.Machine

theorem ginv_ginv (a : Byte) : ginv (ginv a) = a := by
  by_cases ha : a = 0x00#8
  · rw [ha, ginv_zero, ginv_zero]
  · have hone : gmul (ginv a) a = 0x01#8 := (gmul_comm _ _).trans (gmul_ginv a ha)
    have hne : ginv a ≠ 0x00#8 := by
      intro h
      rw [h, gmul_zero_left] at hone
      exact absurd hone (by decide)
    exact (eq_ginv_of_gmul_eq_one hne hone).symm

/-- The inverse of the affine bit transform of R204, in the same rotation form. -/
def invAffine (b : Byte) : Byte := rol8 b 1 ^^^ rol8 b 3 ^^^ rol8 b 6 ^^^ 0x05#8

theorem invAffine_affine : ∀ b : Byte, invAffine (affine b) = b := by decide +kernel

theorem sbox_injective : Function.Injective sbox :=
  (Function.LeftInverse.injective invAffine_affine).comp (Function.Involutive.injective ginv_ginv)

theorem sbox_surjective : Function.Surjective sbox := Finite.surjective_of_injective sbox_injective

/-- The search finds a byte that `p` holds of whenever one lies in the range searched. -/
theorem findByte_spec {p : Byte → Bool} {x : Byte} (hx : p x = true) {n : Nat} (hn : 256 - n ≤ x.toNat) :
    p (findByte p n) = true := by
  induction n with
  | zero => exact absurd x.isLt (by omega)
  | succ n ih =>
    unfold findByte
    split
    · assumption
    · rename_i hfail
      have hne : x.toNat ≠ 255 - n := by
        intro h
        rw [← h, BitVec.ofNat_toNat, BitVec.setWidth_eq] at hfail
        exact hfail hx
      exact ih (by omega)

theorem sbox_invSbox (y : Byte) : sbox (invSbox y) = y := by
  obtain ⟨x, hx⟩ := sbox_surjective y
  exact eq_of_beq (findByte_spec (p := fun x => sbox x == y) (beq_iff_eq.2 hx) (Nat.zero_le _))

theorem invSbox_sbox (x : Byte) : invSbox (sbox x) = x := sbox_injective (sbox_invSbox (sbox x))

/-- Settles O18: the search of `invSbox` ends at a preimage, and `sbox` has only one. -/
theorem inverseSboxInvertsSbox : Obligations.InverseSboxInvertsSbox := fun x => ⟨invSbox_sbox x, sbox_invSbox x⟩

theorem invSbox_eq_of_sbox_eq {x y : Byte} (h : sbox x = y) : invSbox y = x := h ▸ invSbox_sbox x

theorem sbox_zero : sbox 0x00#8 = 0x63#8 := by decide +kernel

theorem invSbox_zero : invSbox 0x00#8 = 0x52#8 := invSbox_eq_of_sbox_eq (by decide +kernel)

/-- For a nonzero byte, an S-box value is undone to the inverse, so one product recognises it. -/
theorem gmul_invAffine_sbox {x : Byte} (hx : x ≠ 0x00#8) : gmul x (invAffine (sbox x)) = 0x01#8 := by
  rw [sbox, invAffine_affine, gmul_ginv x hx]

/-- So sbox differs from a function `f` of the byte when no product x · invAffine (f x) is 1; the byte 0 stands apart. -/
theorem sbox_ne_of_gmul_ne_one (f : Byte → Byte) (hzero : f 0x00#8 ≠ 0x63#8)
    (hone : ∀ x, gmul x (invAffine (f x)) ≠ 0x01#8) (x : Byte) : sbox x ≠ f x := by
  intro h
  by_cases hx : x = 0x00#8
  · rw [hx, sbox_zero] at h
    exact hzero h.symm
  · exact hone x (h ▸ gmul_invAffine_sbox hx)

theorem sbox_ne_self : ∀ x : Byte, sbox x ≠ x :=
  sbox_ne_of_gmul_ne_one (fun x => x) (by decide) (by decide +kernel)

theorem sbox_ne_xor_ff : ∀ x : Byte, sbox x ≠ x ^^^ 0xFF#8 :=
  sbox_ne_of_gmul_ne_one (fun x => x ^^^ 0xFF#8) (by decide) (by decide +kernel)

/-- Settles O19: the values by evaluation, INV_SBOX's through SBOX, and the two properties by one product for each byte. -/
theorem sboxHasNoFixedPoint : Obligations.SboxHasNoFixedPoint := by
  refine ⟨sbox_zero, ?_, ?_, ?_, invSbox_eq_of_sbox_eq sbox_zero, invSbox_zero,
    fun x => ⟨sbox_ne_self x, sbox_ne_xor_ff x⟩⟩ <;> decide +kernel

end Sys2Proof.Machine
end

section
/-! PROOF. The tables: a circulant matrix makes TEk and TDk rotations of TE0 and TD0 (R208 to R212), and TBL_GEN (R215). -/

namespace Sys2Proof.Machine

/-- A rotation by k bytes moves byte j to place j + k. -/
theorem rotr_wordOf (f : Fin 4 → Byte) (k : Fin 4) : rotr (wordOf (f 0) (f 1) (f 2) (f 3)) (8 * k.val) =
    wordOf (f (0 - k)) (f (1 - k)) (f (2 - k)) (f (3 - k)) := by
  apply BitVec.eq_of_getLsbD_eq
  intro i hi
  simp only [rotr, wordOf, BitVec.getLsbD_or, BitVec.getLsbD_shiftLeft, BitVec.getLsbD_ushiftRight,
    BitVec.getLsbD_setWidth]
  match k with
  | 0 | 1 | 2 | 3 =>
    simp only [Fin.reduceSub, Fin.coe_ofNat_eq_mod, Nat.reduceMod, Nat.reduceMul]
    grind

/-- Column k of a circulant matrix is column 0 moved down by k places. -/
theorem tableEntry_eq_rotr {m : Fin 4 → Fin 4 → Byte} (h : ∀ j k, m j k = m (j - k) 0) (k : Fin 4) (b : Byte) :
    tableEntry m k b = rotr (tableEntry m 0 b) (8 * k.val) := by
  unfold tableEntry
  rw [rotr_wordOf (fun j => gmul (m j 0) b) k, h 0 k, h 1 k, h 2 k, h 3 k]

theorem mixM_circulant (j k : Fin 4) : mixM j k = mixM (j - k) 0 := by
  simp only [mixM, zero_sub, neg_sub]

theorem invMixM_circulant (j k : Fin 4) : invMixM j k = invMixM (j - k) 0 := by
  simp only [invMixM, zero_sub, neg_sub]

theorem te_eq_rotr (k : Fin 4) (x : Byte) : te k x = rotr (te 0 x) (8 * k.val) :=
  tableEntry_eq_rotr mixM_circulant k (sbox x)

theorem td_eq_rotr (k : Fin 4) (x : Byte) : td k x = rotr (td 0 x) (8 * k.val) :=
  tableEntry_eq_rotr invMixM_circulant k (invSbox x)

theorem te_of_sbox_eq {x y : Byte} (h : sbox x = y) (k : Fin 4) : te k x = tableEntry mixM k y := h ▸ rfl

theorem td_of_sbox_eq {x y : Byte} (h : sbox x = y) (k : Fin 4) : td k y = tableEntry invMixM k x := by
  rw [td, invSbox_eq_of_sbox_eq h]

/-- Settles O20: both matrices are circulant; the examples are table entries of known S-box values. -/
theorem tablesAreRotations : Obligations.TablesAreRotations := by
  have h52 : sbox 0x52#8 = 0x00#8 := by decide +kernel
  have h53 : sbox 0x53#8 = 0xED#8 := by decide +kernel
  have h7D : sbox 0x7D#8 = 0xFF#8 := by decide +kernel
  refine ⟨fun k x _ => ⟨te_eq_rotr k x, td_eq_rotr k x⟩, ?_⟩
  simp only [te_of_sbox_eq sbox_zero, te_of_sbox_eq h53, td_of_sbox_eq h52, td_of_sbox_eq h7D]
  decide +kernel

/-- Settles O22: the list of checks of TBL_GEN is empty, and its effect is `fillTables`. -/
theorem tblGenFillsTables : Obligations.TblGenFillsTables :=
  ⟨fun _ => rfl, fun _ hp => exec_running hp⟩

end Sys2Proof.Machine
end

section
/-! PROOF. The key schedule: each pass of R254's loop keeps the words before it, and KEY_EXPAND (R256). -/

namespace Sys2Proof.Machine

theorem scheduleWords_length (key : Vector Word 8) (n : Nat) : (scheduleWords key n).length = n + 8 := by
  induction n with
  | zero => exact Vector.length_toList
  | succ n ih => rw [scheduleWords, List.length_append, ih, List.length_singleton]

/-- A further pass of the loop keeps the words written so far. -/
theorem scheduleWords_succ_getD_of_lt (key : Vector Word 8) {n i : Nat} (hi : i < n + 8) :
    (scheduleWords key (n + 1)).getD i 0#32 = (scheduleWords key n).getD i 0#32 :=
  List.getD_append _ _ _ _ (by rwa [scheduleWords_length])

/-- The word a pass of the loop writes (R254). -/
theorem scheduleWords_succ_getD_last (key : Vector Word 8) (n : Nat) :
    (scheduleWords key (n + 1)).getD (n + 8) 0#32 =
      (scheduleWords key n).getD n 0#32 ^^^ scheduleTemp (n + 8) ((scheduleWords key n).getD (n + 7) 0#32) := by
  rw [scheduleWords, List.getD_append_right _ _ _ _ (by rw [scheduleWords_length]), scheduleWords_length, Nat.sub_self,
    List.getD_cons_zero]

theorem scheduleWords_getD_of_le (key : Vector Word 8) {n m i : Nat} (hm : n ≤ m) (hi : i < n + 8) :
    (scheduleWords key m).getD i 0#32 = (scheduleWords key n).getD i 0#32 := by
  induction m, hm using Nat.le_induction with
  | base => rfl
  | succ m hm ih => rw [scheduleWords_succ_getD_of_lt key (by omega), ih]

/-- A round-key word is final from the first pass of the loop that has reached it. -/
theorem expandKey_getElem (key : Vector Word 8) {n i : Nat} (hn : n ≤ 52) (hi : i < n + 8) :
    (expandKey key)[i] = (scheduleWords key n).getD i 0#32 := by
  rw [← scheduleWords_getD_of_le key hn hi]
  exact Vector.getElem_ofFn _

theorem expandKey_getElem_of_lt_eight (key : Vector Word 8) {i : Nat} (hi : i < 8) : (expandKey key)[i] = key[i] := by
  rw [expandKey_getElem key (Nat.zero_le 52) (by omega), scheduleWords,
    List.getD_eq_getElem _ _ (by rwa [Vector.length_toList]), Vector.getElem_toList]

/-- R254's recurrence, the three cases of `temp` still together. -/
theorem expandKey_getElem_add_eight (key : Vector Word 8) {n : Nat} (hn : n < 52) :
    (expandKey key)[n + 8] = (expandKey key)[n] ^^^ scheduleTemp (n + 8) (expandKey key)[n + 7] := by
  rw [expandKey_getElem key (n := n + 1) hn (by omega), scheduleWords_succ_getD_last,
    expandKey_getElem key hn.le (i := n) (by omega), expandKey_getElem key hn.le (i := n + 7) (by omega)]

theorem scheduleTemp_of_mod_zero {i : Nat} (h : i % 8 = 0) (prev : Word) :
    scheduleTemp i prev = subWord (rotWord prev) ^^^ rconWord (i / 8) := if_pos h

theorem scheduleTemp_of_mod_four {i : Nat} (h : i % 8 = 4) (prev : Word) : scheduleTemp i prev = subWord prev := by
  rw [scheduleTemp, if_neg (by omega), if_pos h]

theorem scheduleTemp_of_mod_other {i : Nat} (h0 : i % 8 ≠ 0) (h4 : i % 8 ≠ 4) (prev : Word) :
    scheduleTemp i prev = prev := by
  rw [scheduleTemp, if_neg h0, if_neg h4]

/-- Settles O24: the recurrence of the loop's passes, in each case of `temp`. -/
theorem scheduleRecurrence : Obligations.ScheduleRecurrence := by
  refine fun key => ⟨fun i hi => expandKey_getElem_of_lt_eight key hi, fun i hi => ?_⟩
  obtain ⟨n, rfl⟩ := Nat.exists_eq_add_of_le' hi.1
  have hrec := expandKey_getElem_add_eight key (n := n) (by omega)
  refine ⟨fun h0 => ?_, fun h4 => ?_, fun h0 h4 => ?_⟩
  · rw [hrec, scheduleTemp_of_mod_zero h0, ← BitVec.xor_assoc]
    rfl
  · rw [hrec, scheduleTemp_of_mod_four h4]
    rfl
  · rw [hrec, scheduleTemp_of_mod_other h0 h4]
    rfl

/-- Settles O25: the list of checks of KEY_EXPAND is empty, and its effect is `keyExpandEffect`. -/
theorem keyExpandWritesSchedule : Obligations.KeyExpandWritesSchedule :=
  ⟨fun _ => rfl, fun _ hp => exec_running hp⟩

end Sys2Proof.Machine
end

section
/-! PROOF. The round functions read byte by byte, in the rows and columns of R19 (R300 to R305). -/

namespace Sys2Proof.Machine

/-- The byte of a state in row `r` and column `c` (R19). -/
def byteAt (s : Block) (r c : Fin 4) : Byte := s[4 * c.val + r.val]

theorem block_ext {s t : Block} (h : ∀ r c, byteAt s r c = byteAt t r c) : s = t := by
  apply Vector.ext
  intro i hi
  have hbyte := h ⟨i % 4, by omega⟩ ⟨i / 4, by omega⟩
  simpa only [byteAt, Nat.div_add_mod] using hbyte

@[simp] theorem byteAt_subBytes (s : Block) (r c : Fin 4) : byteAt (subBytes s) r c = sbox (byteAt s r c) :=
  Vector.getElem_map ..

@[simp] theorem byteAt_invSubBytes (s : Block) (r c : Fin 4) : byteAt (invSubBytes s) r c = invSbox (byteAt s r c) :=
  Vector.getElem_map ..

/-- The row and the column of an element number (R19). -/
theorem row_col_of_index (r c : Fin 4) : (4 * c.val + r.val) % 4 = r.val ∧ (4 * c.val + r.val) / 4 = c.val := by
  omega

@[simp] theorem byteAt_shiftRows (s : Block) (r c : Fin 4) : byteAt (shiftRows s) r c = byteAt s r (c + r) := by
  obtain ⟨hrow, hcol⟩ := row_col_of_index r c
  simp only [byteAt, shiftRows, Vector.getElem_ofFn, hrow, hcol, Fin.val_add, Nat.add_comm r.val]

@[simp] theorem byteAt_invShiftRows (s : Block) (r c : Fin 4) : byteAt (invShiftRows s) r c = byteAt s r (c - r) := by
  obtain ⟨hrow, hcol⟩ := row_col_of_index r c
  have hsub : (c.val + 4 - r.val) % 4 = (c - r).val := by rw [Fin.val_sub]; omega
  simp only [byteAt, invShiftRows, Vector.getElem_ofFn, hrow, hcol, hsub, Nat.add_comm r.val]

@[simp] theorem byteAt_addRoundKey (rk : RoundKeys) (n : Fin 15) (s : Block) (r c : Fin 4) :
    byteAt (addRoundKey rk n s) r c = byteAt s r c ^^^ byteOf rk[4 * n.val + c.val] r.val := by
  obtain ⟨hrow, hcol⟩ := row_col_of_index r c
  simp only [byteAt, addRoundKey, Vector.getElem_ofFn, Fin.getElem_fin, hrow, hcol]

@[simp] theorem byteAt_mulColumns (m : Fin 4 → Fin 4 → Byte) (s : Block) (r c : Fin 4) :
    byteAt (mulColumns m s) r c = mulColumn m (byteAt s 0 c) (byteAt s 1 c) (byteAt s 2 c) (byteAt s 3 c) r := by
  obtain ⟨hrow, hcol⟩ := row_col_of_index r c
  simp only [byteAt, mulColumns, Vector.getElem_ofFn, hrow, hcol]
  rfl

end Sys2Proof.Machine
end

section
/-! PROOF. Each round function is undone by its inverse, so InvCipher and Cipher invert each other (R300 to R308). -/

namespace Sys2Proof.Machine

@[simp] theorem addRoundKey_addRoundKey (rk : RoundKeys) (n : Fin 15) (s : Block) :
    addRoundKey rk n (addRoundKey rk n s) = s :=
  block_ext fun r c => by
    rw [byteAt_addRoundKey, byteAt_addRoundKey, BitVec.xor_assoc, BitVec.xor_self, BitVec.xor_zero]

@[simp] theorem invSubBytes_subBytes (s : Block) : invSubBytes (subBytes s) = s :=
  block_ext fun r c => by rw [byteAt_invSubBytes, byteAt_subBytes, invSbox_sbox]

@[simp] theorem subBytes_invSubBytes (s : Block) : subBytes (invSubBytes s) = s :=
  block_ext fun r c => by rw [byteAt_subBytes, byteAt_invSubBytes, sbox_invSbox]

@[simp] theorem invShiftRows_shiftRows (s : Block) : invShiftRows (shiftRows s) = s :=
  block_ext fun r c => by rw [byteAt_invShiftRows, byteAt_shiftRows, sub_add_cancel]

@[simp] theorem shiftRows_invShiftRows (s : Block) : shiftRows (invShiftRows s) = s :=
  block_ext fun r c => by rw [byteAt_shiftRows, byteAt_invShiftRows, add_sub_cancel_right]

/-- InvSubBytes acts byte by byte, so it commutes with moving the bytes. -/
theorem invSubBytes_invShiftRows (s : Block) : invSubBytes (invShiftRows s) = invShiftRows (invSubBytes s) :=
  block_ext fun r c => by simp only [byteAt_invSubBytes, byteAt_invShiftRows]

theorem gmul_assoc (a b c : Byte) : gmul (gmul a b) c = gmul a (gmul b c) := by
  rw [gmul_comm a b, gmul_right_comm, gmul_comm]

theorem gmul_xor_right (a b c : Byte) : gmul a (b ^^^ c) = gmul a b ^^^ gmul a c := by
  rw [gmul_comm, gmul_xor_left, gmul_comm b, gmul_comm c]

/-- The product of two matrices over GF(2^8): its column k is `m'` times column k of `m`. -/
def mulMatrix (m' m : Fin 4 → Fin 4 → Byte) (j k : Fin 4) : Byte := mulColumn m' (m 0 k) (m 1 k) (m 2 k) (m 3 k) j

theorem mulColumn_mulColumn (m' m : Fin 4 → Fin 4 → Byte) (a0 a1 a2 a3 : Byte) (j : Fin 4) :
    mulColumn m' (mulColumn m a0 a1 a2 a3 0) (mulColumn m a0 a1 a2 a3 1) (mulColumn m a0 a1 a2 a3 2)
        (mulColumn m a0 a1 a2 a3 3) j =
      mulColumn (mulMatrix m' m) a0 a1 a2 a3 j := by
  simp only [mulColumn, mulMatrix, gmul_xor_right, gmul_xor_left, gmul_assoc]
  ac_rfl

/-- The product of the matrices `m'` and `m` is the unit matrix. -/
def MatrixInverts (m' m : Fin 4 → Fin 4 → Byte) : Prop :=
  ∀ j k, mulMatrix m' m j k = if j = k then 0x01#8 else 0x00#8

theorem mulColumns_mulColumns {m' m : Fin 4 → Fin 4 → Byte} (h : MatrixInverts m' m) (s : Block) :
    mulColumns m' (mulColumns m s) = s := by
  refine block_ext fun r c => ?_
  simp only [byteAt_mulColumns]
  rw [mulColumn_mulColumn]
  simp only [mulColumn, h r]
  match r with
  | 0 | 1 | 2 | 3 => simp [gmul_one_left, gmul_zero_left]

theorem invMixM_inverts_mixM : MatrixInverts invMixM mixM := by
  unfold MatrixInverts
  decide +kernel

theorem mixM_inverts_invMixM : MatrixInverts mixM invMixM := by
  unfold MatrixInverts
  decide +kernel

@[simp] theorem invMixColumns_mixColumns (s : Block) : invMixColumns (mixColumns s) = s :=
  mulColumns_mulColumns invMixM_inverts_mixM s

@[simp] theorem mixColumns_invMixColumns (s : Block) : mixColumns (invMixColumns s) = s :=
  mulColumns_mulColumns mixM_inverts_invMixM s

/-- The inverse of a full round of Cipher, its steps undone one by one. -/
def undoRound (rk : RoundKeys) (s : Block) (r : Fin 15) : Block :=
  invSubBytes (invShiftRows (invMixColumns (addRoundKey rk r s)))

theorem undoRound_fullRound (rk : RoundKeys) (s : Block) (r : Fin 15) : undoRound rk (fullRound rk s r) r = s := by
  simp [undoRound, fullRound]

theorem fullRound_undoRound (rk : RoundKeys) (s : Block) (r : Fin 15) : fullRound rk (undoRound rk s r) r = s := by
  simp [undoRound, fullRound]

/-- InvCipher's rounds (R307) cut between InvSubBytes and AddRoundKey are the inverses of Cipher's rounds. -/
theorem invCipher_eq_undoRounds (rk : RoundKeys) (b : Block) :
    invCipher rk b = addRoundKey rk 0
      (middleRounds.reverse.foldl (undoRound rk) (invSubBytes (invShiftRows (addRoundKey rk 14 b)))) :=
  congrArg (addRoundKey rk 0)
    (List.foldl_hom (fun s => invSubBytes (invShiftRows s)) (g₁ := invFullRound rk) fun _ _ => rfl).symm

/-- Rounds undone in reverse order. -/
theorem foldl_reverse_foldl {α β : Type} {f g : α → β → α} (h : ∀ a b, g (f a b) b = a) (l : List β) (a : α) :
    l.reverse.foldl g (l.foldl f a) = a := by
  induction l generalizing a with
  | nil => rfl
  | cons b l ih => rw [List.reverse_cons, List.foldl_append, List.foldl_cons, List.foldl_cons, List.foldl_nil, ih, h]

/-- Settles O28: the rounds of one undo those of the other in reverse order. -/
theorem cipherRoundTrip : Obligations.CipherRoundTrip := by
  intro rk b
  have hundo := foldl_reverse_foldl (undoRound_fullRound rk) middleRounds
  have hredo := foldl_reverse_foldl (fullRound_undoRound rk) middleRounds.reverse
  rw [List.reverse_reverse] at hredo
  rw [invCipher_eq_undoRounds, invCipher_eq_undoRounds, cipher, cipher]
  simp [hundo, hredo, -List.foldl_reverse]

end Sys2Proof.Machine
end

section
/-! PROOF. The round functions on column words: the T-table forms compute Cipher and InvCipher (R309 to R312). -/

namespace Sys2Proof.Machine

theorem sbox_generated (x : Byte) : Tables.generated.sbox x = sbox x := by
  simp [Tables.sbox, Tables.generated]

theorem invSbox_generated (x : Byte) : Tables.generated.invSbox x = invSbox x := by
  simp [Tables.invSbox, Tables.generated]

theorem te_generated (k : Fin 4) (x : Byte) : Tables.generated.te k x = te k x := by
  simp [Tables.te, Tables.generated]

theorem td_generated (k : Fin 4) (x : Byte) : Tables.generated.td k x = td k x := by
  simp [Tables.td, Tables.generated]

theorem wordOf_xor_wordOf (a0 a1 a2 a3 b0 b1 b2 b3 : Byte) :
    wordOf a0 a1 a2 a3 ^^^ wordOf b0 b1 b2 b3 = wordOf (a0 ^^^ b0) (a1 ^^^ b1) (a2 ^^^ b2) (a3 ^^^ b3) := by
  apply BitVec.eq_of_getLsbD_eq
  intro i hi
  simp only [wordOf_eq_append, BitVec.getLsbD_append, BitVec.getLsbD_xor]
  split_ifs <;> rfl

theorem byteOf_wordOf (f : Fin 4 → Byte) (j : Fin 4) : byteOf (wordOf (f 0) (f 1) (f 2) (f 3)) j.val = f j := by
  rw [wordOf_eq_append]
  apply BitVec.eq_of_getLsbD_eq
  intro i hi
  simp only [getLsbD_byteOf, BitVec.getLsbD_append]
  match j with
  | 0 | 1 | 2 | 3 => grind

theorem getElem_wordsOfBytes (s : Block) (c : Fin 4) :
    (wordsOfBytes s)[c] = wordOf (byteAt s 0 c) (byteAt s 1 c) (byteAt s 2 c) (byteAt s 3 c) :=
  Vector.getElem_ofFn _

theorem byteOf_wordsOfBytes (s : Block) (r c : Fin 4) : byteOf (wordsOfBytes s)[c] r.val = byteAt s r c := by
  rw [getElem_wordsOfBytes, byteOf_wordOf fun r => byteAt s r c]

theorem bytesOfWords_wordsOfBytes (s : Block) : bytesOfWords (wordsOfBytes s) = s := by
  refine block_ext fun r c => ?_
  obtain ⟨hrow, hcol⟩ := row_col_of_index r c
  rw [← byteOf_wordsOfBytes s]
  simp only [byteAt, bytesOfWords, Vector.getElem_ofFn, Fin.getElem_fin, hrow, hcol]

theorem words_ext {x y : Vector Word 4} (h : ∀ c : Fin 4, x[c] = y[c]) : x = y :=
  Vector.ext fun c hc => h ⟨c, hc⟩

theorem getElem_wordsOfBytes_addRoundKey (rk : RoundKeys) (n : Fin 15) (s : Block) (c : Fin 4) :
    (wordsOfBytes (addRoundKey rk n s))[c] = (wordsOfBytes s)[c] ^^^ rk[4 * n.val + c.val] := by
  rw [getElem_wordsOfBytes, getElem_wordsOfBytes, ← wordOf_byteOf rk[4 * n.val + c.val], wordOf_xor_wordOf]
  simp only [byteAt_addRoundKey]
  rfl

/-- A matrix times a column, as the sum of the matrix's columns scaled by the bytes: what the T-tables rest on (R210). -/
theorem wordOf_mulColumn (m : Fin 4 → Fin 4 → Byte) (a0 a1 a2 a3 : Byte) :
    wordOf (mulColumn m a0 a1 a2 a3 0) (mulColumn m a0 a1 a2 a3 1) (mulColumn m a0 a1 a2 a3 2) (mulColumn m a0 a1 a2 a3 3) =
      tableEntry m 0 a0 ^^^ tableEntry m 1 a1 ^^^ tableEntry m 2 a2 ^^^ tableEntry m 3 a3 := by
  simp only [tableEntry, wordOf_xor_wordOf, mulColumn]

theorem getElem_wordsOfBytes_mulColumns (m : Fin 4 → Fin 4 → Byte) (s : Block) (c : Fin 4) :
    (wordsOfBytes (mulColumns m s))[c] = tableEntry m 0 (byteAt s 0 c) ^^^ tableEntry m 1 (byteAt s 1 c) ^^^
      tableEntry m 2 (byteAt s 2 c) ^^^ tableEntry m 3 (byteAt s 3 c) := by
  simp only [getElem_wordsOfBytes, byteAt_mulColumns, wordOf_mulColumn]

/-- AddRoundKey on column words, the words and the round key given in any form. -/
theorem ofFn_xor_eq_addRoundKey {rk : RoundKeys} {n : Fin 15} {s : Block} {w k : Fin 4 → Word}
    (hw : ∀ c, w c = (wordsOfBytes s)[c]) (hk : ∀ c : Fin 4, k c = rk[4 * n.val + c.val]) :
    (Vector.ofFn fun c => w c ^^^ k c) = wordsOfBytes (addRoundKey rk n s) :=
  words_ext fun c => by
    rw [getElem_wordsOfBytes_addRoundKey, ← hw, ← hk]
    exact Vector.getElem_ofFn _

/-- A full round in table form is a full round: TEk holds column k of the matrix, scaled by the S-box value (R309). -/
theorem tableRound_wordsOfBytes (rk : RoundKeys) (s : Block) (n : Fin 15) :
    tableRound Tables.generated rk (wordsOfBytes s) n = wordsOfBytes (fullRound rk s n) := by
  refine words_ext fun c => ?_
  simp only [fullRound, mixColumns, getElem_wordsOfBytes_addRoundKey, getElem_wordsOfBytes_mulColumns,
    byteAt_shiftRows, byteAt_subBytes, ← byteOf_wordsOfBytes s, add_zero]
  simp only [tableRound, te_generated, te]
  exact Vector.getElem_ofFn _

/-- Cipher's last round on words (R306, R310). -/
theorem getElem_wordsOfBytes_shiftRows_subBytes (s : Block) (c : Fin 4) :
    (wordsOfBytes (shiftRows (subBytes s)))[c] =
      wordOf (sbox (byteOf (wordsOfBytes s)[c] 0)) (sbox (byteOf (wordsOfBytes s)[c + 1] 1))
        (sbox (byteOf (wordsOfBytes s)[c + 2] 2)) (sbox (byteOf (wordsOfBytes s)[c + 3] 3)) := by
  rw [getElem_wordsOfBytes]
  simp only [byteAt_shiftRows, byteAt_subBytes, ← byteOf_wordsOfBytes s, add_zero]
  rfl

theorem tableCipher_generated (rk : RoundKeys) (b : Block) : tableCipher Tables.generated rk b = cipher rk b := by
  have hfirst : (Vector.ofFn fun c : Fin 4 => (wordsOfBytes b)[c] ^^^ rk[c.val]) = wordsOfBytes (addRoundKey rk 0 b) :=
    ofFn_xor_eq_addRoundKey (fun _ => rfl) fun c => by simp
  have hrounds := List.foldl_hom wordsOfBytes (l := middleRounds) (init := addRoundKey rk 0 b)
    fun s n => tableRound_wordsOfBytes rk s n
  have hlast (c : Fin 4) : rk[56 + c.val] = rk[4 * (14 : Fin 15).val + c.val] := rfl
  simp only [tableCipher, hfirst, hrounds, sbox_generated]
  rw [ofFn_xor_eq_addRoundKey (fun c => (getElem_wordsOfBytes_shiftRows_subBytes _ c).symm) hlast,
    bytesOfWords_wordsOfBytes, cipher]

theorem tableEntry_xor (m : Fin 4 → Fin 4 → Byte) (k : Fin 4) (a b : Byte) :
    tableEntry m k (a ^^^ b) = tableEntry m k a ^^^ tableEntry m k b := by
  simp only [tableEntry, gmul_xor_right, wordOf_xor_wordOf]

/-- `InvMixWord` of a word, read off the matrix's columns (R305). -/
theorem invMixWord_eq_tableEntries (x : Word) :
    invMixWord x = tableEntry invMixM 0 (byteOf x 0) ^^^ tableEntry invMixM 1 (byteOf x 1) ^^^
      tableEntry invMixM 2 (byteOf x 2) ^^^ tableEntry invMixM 3 (byteOf x 3) :=
  wordOf_mulColumn invMixM ..

/-- InvMixColumns is linear, so it can be applied to the state and to the round key apart (R311). -/
theorem getElem_wordsOfBytes_invMixColumns_addRoundKey (rk : RoundKeys) (n : Fin 15) (s : Block) (c : Fin 4) :
    (wordsOfBytes (invMixColumns (addRoundKey rk n s)))[c] =
      (wordsOfBytes (invMixColumns s))[c] ^^^ invMixWord rk[4 * n.val + c.val] := by
  simp only [invMixColumns, getElem_wordsOfBytes_mulColumns, byteAt_addRoundKey, tableEntry_xor,
    invMixWord_eq_tableEntries]
  simp only [Fin.coe_ofNat_eq_mod, Nat.reduceMod]
  ac_rfl

theorem getElem_decryptKeys (rk : RoundKeys) {i : Nat} (hi : i < 60) :
    (decryptKeys rk)[i] = if 4 ≤ i ∧ i ≤ 55 then invMixWord rk[i] else rk[i] :=
  Vector.getElem_ofFn _

theorem getElem_decryptKeys_middle (rk : RoundKeys) {n : Fin 15} (hn : n ∈ middleRounds) (c : Fin 4) :
    (decryptKeys rk)[4 * n.val + c.val] = invMixWord rk[4 * n.val + c.val] := by
  have hrange : ∀ n ∈ middleRounds, 1 ≤ n.val ∧ n.val ≤ 13 := by decide
  obtain ⟨hlo, hhi⟩ := hrange n hn
  rw [getElem_decryptKeys, if_pos (by omega)]

/-- The columns that InvShiftRows reads, as R312 numbers them. -/
theorem column_sub (c : Fin 4) : c - 1 = c + 3 ∧ c - 2 = c + 2 ∧ c - 3 = c + 1 := by
  revert c
  decide

theorem invTableRound_wordsOfBytes (rk : RoundKeys) (s : Block) {n : Fin 15} (hn : n ∈ middleRounds) :
    invTableRound Tables.generated (decryptKeys rk) (wordsOfBytes s) n = wordsOfBytes (invFullRound rk s n) := by
  refine words_ext fun c => ?_
  obtain ⟨h1, h2, h3⟩ := column_sub c
  simp only [invFullRound, getElem_wordsOfBytes_invMixColumns_addRoundKey]
  simp only [invMixColumns, getElem_wordsOfBytes_mulColumns,
    byteAt_invSubBytes, byteAt_invShiftRows, ← byteOf_wordsOfBytes s, sub_zero, h1, h2, h3,
    ← getElem_decryptKeys_middle rk hn]
  simp only [invTableRound, td_generated, td]
  exact Vector.getElem_ofFn _

/-- InvCipher's last round on words (R307, R312). -/
theorem getElem_wordsOfBytes_invSubBytes_invShiftRows (s : Block) (c : Fin 4) :
    (wordsOfBytes (invSubBytes (invShiftRows s)))[c] =
      wordOf (invSbox (byteOf (wordsOfBytes s)[c] 0)) (invSbox (byteOf (wordsOfBytes s)[c + 3] 1))
        (invSbox (byteOf (wordsOfBytes s)[c + 2] 2)) (invSbox (byteOf (wordsOfBytes s)[c + 1] 3)) := by
  obtain ⟨h1, h2, h3⟩ := column_sub c
  rw [getElem_wordsOfBytes]
  simp only [byteAt_invSubBytes, byteAt_invShiftRows, ← byteOf_wordsOfBytes s, sub_zero, h1, h2, h3]
  rfl

theorem invTableRounds_wordsOfBytes (rk : RoundKeys) (s : Block) :
    middleRounds.reverse.foldl (invTableRound Tables.generated (decryptKeys rk)) (wordsOfBytes s) =
      wordsOfBytes (middleRounds.reverse.foldl (invFullRound rk) s) :=
  List.foldl_rel (r := fun w s => w = wordsOfBytes s) rfl fun n hn w s hw => by
    rw [hw, invTableRound_wordsOfBytes rk s (List.mem_reverse.1 hn)]

theorem invTableCipher_generated (rk : RoundKeys) (b : Block) :
    invTableCipher Tables.generated rk b = invCipher rk b := by
  have hkeyFirst (c : Fin 4) : (decryptKeys rk)[56 + c.val] = rk[4 * (14 : Fin 15).val + c.val] := by
    rw [getElem_decryptKeys, if_neg (by omega)]
    rfl
  have hkeyLast (c : Fin 4) : (decryptKeys rk)[c.val] = rk[4 * (0 : Fin 15).val + c.val] := by
    rw [getElem_decryptKeys, if_neg (by omega)]
    simp
  have hfirst : (Vector.ofFn fun c : Fin 4 => (wordsOfBytes b)[c] ^^^ (decryptKeys rk)[56 + c.val]) =
      wordsOfBytes (addRoundKey rk 14 b) := ofFn_xor_eq_addRoundKey (fun _ => rfl) hkeyFirst
  simp only [invTableCipher, hfirst, invTableRounds_wordsOfBytes, invSbox_generated]
  rw [ofFn_xor_eq_addRoundKey (fun c => (getElem_wordsOfBytes_invSubBytes_invShiftRows _ c).symm) hkeyLast,
    bytesOfWords_wordsOfBytes, invCipher]

/-- Settles O29: on column words, a round in table form is a round. -/
theorem tableFormEqualsCipher : Obligations.TableFormEqualsCipher := fun rk b =>
  ⟨tableCipher_generated rk b, invTableCipher_generated rk b⟩

end Sys2Proof.Machine
end

section
/-! PROOF. AES_ENC_BLK and AES_DEC_BLK (R313 to R315). -/

namespace Sys2Proof.Machine

/-- A command whose only check is KS_VALID (R169). -/
theorem rejection_of_keyValid_alone {i : Instr} (h : checksOf i = [.keyValid]) (s : State) :
    rejection i s = if s.ksValid then none else some .eNoKey := by
  rw [rejection, h, firstFailure, Check.fails]
  cases s.ksValid <;> rfl

/-- Settles O30: the running block command completes with its effect. -/
theorem blockCommandsTransformBlk : Obligations.BlockCommandsTransformBlk := by
  refine fun s => ⟨fun i hi => rejection_of_keyValid_alone ?_ s, fun hp => exec_running hp, fun hp => exec_running hp⟩
  simp only [List.mem_cons, List.not_mem_nil, or_false] at hi
  rcases hi with rfl | rfl <;> rfl

end Sys2Proof.Machine
end

section
/-! PROOF. Blocks: their XOR, the counter as a block, and a block of DBUF cut at a length (R350, R355, R357). -/

namespace Sys2Proof.Machine

@[simp] theorem getElem_xorBlock (x y : Block) {j : Nat} (hj : j < 16) : (xorBlock x y)[j] = x[j] ^^^ y[j] := by
  simp [xorBlock]

@[simp] theorem xorBlock_xorBlock (x y : Block) : xorBlock (xorBlock x y) y = x := by
  apply Vector.ext
  intro j hj
  simp

/-- Bit `b` of a counter lies in byte 15 - b / 8 of its block (R357). -/
theorem getLsbD_counterBlock (c : BitVec 128) {b : Nat} (hb : b < 128) :
    (counterBlock c)[15 - b / 8].getLsbD (b % 8) = c.getLsbD b := by
  have hbit : 8 * (15 - (15 - b / 8)) + b % 8 = b := by omega
  have hmod : b % 8 < 8 := Nat.mod_lt _ (by decide)
  simp [counterBlock, hbit, hmod]

theorem counterBlock_injective : Function.Injective counterBlock := by
  intro c d h
  apply BitVec.eq_of_getLsbD_eq
  intro b hb
  rw [← getLsbD_counterBlock c hb, ← getLsbD_counterBlock d hb, h]

/-- A counter written to IV is the counter that IV holds (R46, R357). -/
@[simp] theorem ivInt_wordsOfBytes_counterBlock (c : BitVec 128) : ivInt (wordsOfBytes (counterBlock c)) = c :=
  counterBlock_injective (by rw [counterBlock_ivInt, bytesOfWords_wordsOfBytes])

theorem getElem_readBlock (s : State) (a : Nat) {j : Nat} (hj : j < 16) : (s.readBlock a)[j] = s.dbufByte (a + j) := by
  simp [State.readBlock]

/-- The first `m` bytes of the block at `a`, the rest 0: what a short last block depends on (R350, R358). -/
def State.readCut (s : State) (a m : Nat) : Block :=
  Vector.ofFn fun j => if j.val < m then s.dbufByte (a + j.val) else 0x00#8

theorem getElem_readCut (s : State) (a m : Nat) {j : Nat} (hj : j < 16) (hm : j < m) :
    (s.readCut a m)[j] = s.dbufByte (a + j) := by
  simp [State.readCut, hm]

theorem readCut_whole (s : State) (a : Nat) : s.readCut a 16 = s.readBlock a := by
  simp [State.readCut, State.readBlock]

theorem readCut_congr {s t : State} {a b m : Nat} (h : ∀ j, j < m → t.dbufByte (b + j) = s.dbufByte (a + j)) :
    t.readCut b m = s.readCut a m := by
  simp only [State.readCut]
  congr 1
  funext j
  split_ifs with hj
  · exact h j hj
  · rfl

/-- A read of `m` bytes XORed with a keystream block cut to `m` bytes is the XOR of the cut blocks, cut (R358). -/
theorem xorBytes_memRead_take (s : State) (a : Nat) (k : Block) {m : Nat} (hm : m ≤ 16) :
    xorBytes (s.memRead a m) (k.toList.take m) = (xorBlock (s.readCut a m) k).toList.take m := by
  have hlen : (xorBytes (s.memRead a m) (k.toList.take m)).length = m := by
    simp [xorBytes, memRead_length, hm]
  apply List.ext_getElem
  · simp [hlen, hm]
  · intro j hj _
    have hjm : j < m := hlen ▸ hj
    simp [xorBytes, getElem_memRead, getElem_readCut, hjm]

/-- Equal strings of `n` bytes are equal byte by byte. -/
theorem memRead_eq_iff {s t : State} {a b n : Nat} :
    t.memRead b n = s.memRead a n ↔ ∀ k, k < n → t.dbufByte (b + k) = s.dbufByte (a + k) := by
  simp [State.memRead]

end Sys2Proof.Machine
end

section
/-! PROOF. The five mode commands as one chained transform: what a block becomes and what the next block's chaining value is
(R353 to R358), and the model's run functions as runs of it. -/

namespace Sys2Proof.Machine

/-- The block written for the data block `p` under the chaining value `c`. -/
def blockOut (i : Instr) (rk : RoundKeys) (c p : Block) : Block :=
  match i with
  | .ecbEnc => cipher rk p
  | .ecbDec => invCipher rk p
  | .cbcEnc => cipher rk (xorBlock p c)
  | .cbcDec => xorBlock (invCipher rk p) c
  | .ctrXform => xorBlock p (cipher rk c)
  | .tblGen | .keyExpand | .aesEncBlk | .aesDecBlk | .sha256Raw | .sha256Padded => p

/-- The chaining value after the data block `p` under the chaining value `c`: the ciphertext block for CBC, the next counter for
CTR (R351). -/
def nextChain (i : Instr) (rk : RoundKeys) (c p : Block) : Block :=
  match i with
  | .cbcEnc => cipher rk (xorBlock p c)
  | .cbcDec => p
  | .ctrXform => counterBlock (ivInt (wordsOfBytes c) + 1)
  | .ecbEnc | .ecbDec | .tblGen | .keyExpand | .aesEncBlk | .aesDecBlk | .sha256Raw | .sha256Padded => c

/-- The chaining value before block `n` of the data `p`, IV's bytes before block 0 (R351). -/
def chainAt (i : Instr) (rk : RoundKeys) (iv : Vector Word 4) (p : Nat → Block) : Nat → Block
  | 0 => bytesOfWords iv
  | n + 1 => nextChain i rk (chainAt i rk iv p n) (p n)

/-- What block `n` of the data `p` becomes. -/
def outAt (i : Instr) (rk : RoundKeys) (iv : Vector Word 4) (p : Nat → Block) (n : Nat) : Block :=
  blockOut i rk (chainAt i rk iv p n) (p n)

/-- The number of bytes of block `n`: 16, but for a short last block of CTR (R350). -/
def State.blockBytes (s : State) (n : Nat) : Nat := min 16 (s.len.toNat - 16 * n)

theorem blockBytes_le (s : State) (n : Nat) : s.blockBytes n ≤ 16 := Nat.min_le_left ..

theorem blockBytes_whole {s : State} {n : Nat} (h : 16 * n + 16 ≤ s.len.toNat) : s.blockBytes n = 16 :=
  Nat.min_eq_left (by omega)

/-- Block `n` of the source of a mode command. -/
def State.dataBlock (s : State) (n : Nat) : Block := s.readCut (s.src.toNat + 16 * n) (s.blockBytes n)

theorem dataBlock_whole {s : State} {n : Nat} (h : 16 * n + 16 ≤ s.len.toNat) :
    s.dataBlock n = s.readBlock (s.src.toNat + 16 * n) := by
  rw [State.dataBlock, blockBytes_whole h, readCut_whole]

/-- DBUF and the chaining value after the first `n` blocks, as the run function of each mode gives them. -/
def modeRun (i : Instr) (s : State) (n : Nat) : Memory × Block :=
  match i with
  | .ecbEnc => (ecbRun (cipher s.rk) s n, bytesOfWords s.iv)
  | .ecbDec => (ecbRun (invCipher s.rk) s n, bytesOfWords s.iv)
  | .cbcEnc => cbcEncRun s n
  | .cbcDec => cbcDecRun s n
  | .ctrXform => ((ctrRun s n).1, counterBlock (ctrRun s n).2)
  | .tblGen | .keyExpand | .aesEncBlk | .aesDecBlk | .sha256Raw | .sha256Padded => (s.dbuf, bytesOfWords s.iv)

/-- Block `n` of a mode command, on the DBUF and the chaining value that the blocks before it leave (R352). -/
def modeStep (i : Instr) (s : State) (n : Nat) (r : Memory × Block) : Memory × Block :=
  let p := State.dataBlock { s with dbuf := r.1 } n
  (Memory.writeBytes r.1 (s.dst.toNat + 16 * n) ((blockOut i s.rk r.2 p).toList.take (s.blockBytes n)),
    nextChain i s.rk r.2 p)

theorem modeRun_zero (i : Instr) (s : State) : modeRun i s 0 = (s.dbuf, bytesOfWords s.iv) := by
  cases i <;> simp [modeRun, ecbRun, cbcEncRun, cbcDecRun, ctrRun, counterBlock_ivInt]

/-- A whole block is written whole. -/
theorem modeStep_whole (i : Instr) {s : State} {n : Nat} (h : 16 * n + 16 ≤ s.len.toNat) (r : Memory × Block) :
    modeStep i s n r =
      let p := State.readBlock { s with dbuf := r.1 } (s.src.toNat + 16 * n)
      (Memory.writeBytes r.1 (s.dst.toNat + 16 * n) (blockOut i s.rk r.2 p).toList, nextChain i s.rk r.2 p) := by
  have htake (b : Block) : b.toList.take 16 = b.toList := List.take_of_length_le (by simp)
  have hdata := dataBlock_whole (s := { s with dbuf := r.1 }) h
  simp only [modeStep, hdata, blockBytes_whole h, htake]

/-- The modes whose data is whole blocks have it so (R172). -/
def WholeBlocks (i : Instr) (s : State) : Prop := Chained i → s.len.toNat % 16 = 0

/-- Each mode's run function goes on by `modeStep`, as long as data is left. -/
theorem modeRun_succ {i : Instr} {s : State} (hi : UsesDst i) (hw : WholeBlocks i s) {n : Nat} (hn : 16 * n < s.len.toNat) :
    modeRun i s (n + 1) = modeStep i s n (modeRun i s n) := by
  have hwhole (hc : Chained i) : 16 * n + 16 ≤ s.len.toNat := by
    have hlen := hw hc
    omega
  cases i with
  | ecbEnc | ecbDec | cbcEnc | cbcDec =>
    simp only [modeStep_whole _ (hwhole (by decide)), modeRun, ecbRun, cbcEncRun, cbcDecRun, blockOut, nextChain,
      writeBlock_dbuf]
  | ctrXform =>
    simp only [modeRun, ctrRun, modeStep, blockOut, nextChain, ivInt_wordsOfBytes_counterBlock, memWrite_dbuf]
    rw [← State.blockBytes, xorBytes_memRead_take _ _ _ (blockBytes_le s n)]
    rfl
  | _ => exact absurd hi (by decide)

theorem blockCount_eq {i : Instr} {s : State} (hi : UsesDst i) (hw : WholeBlocks i s) :
    blockCount i s = (s.len.toNat + 15) / 16 := by
  cases i with
  | ecbEnc | ecbDec | cbcEnc | cbcDec =>
    have hlen := hw (by decide)
    simp only [blockCount]
    omega
  | ctrXform => rfl
  | _ => exact absurd hi (by decide)

/-- A mode command writes DBUF and IV, and ECB writes back IV as it was (R351, R353 to R358). -/
theorem effectOf_mode {i : Instr} (hi : UsesDst i) (s : State) :
    effectOf i s = { s with
      dbuf := (modeRun i s (blockCount i s)).1, iv := wordsOfBytes (modeRun i s (blockCount i s)).2 } := by
  cases i with
  | ecbEnc | ecbDec => simp only [effectOf, ecbEncEffect, ecbDecEffect, modeRun, wordsOfBytes_bytesOfWords]
  | cbcEnc | cbcDec | ctrXform => rfl
  | _ => exact absurd hi (by decide)

end Sys2Proof.Machine
end

section
/-! PROOF. What a mode command does as a whole: from the source as it stood before, in place or not (R352, R359), and with the
bytes it leaves alone. -/

namespace Sys2Proof.Machine

/-- What the checks of a mode command give: whole blocks where the mode needs them (R172), and regions that coincide or are
disjoint (R173). -/
structure Placed (i : Instr) (s : State) : Prop where
  whole : WholeBlocks i s
  apart : s.src.toNat = s.dst.toNat ∨ s.src.toNat + s.len.toNat ≤ s.dst.toNat ∨ s.dst.toNat + s.len.toNat ≤ s.src.toNat

/-- The rows of R168's table that a mode command's regions rest on. -/
theorem mem_checksOf_mode {i : Instr} (hi : UsesDst i) :
    .noOverlap ∈ checksOf i ∧ .inRange .src ∈ checksOf i ∧ (Chained i → .lenMultiple 16 ∈ checksOf i) := by
  cases i with
  | ecbEnc | ecbDec | cbcEnc | cbcDec | ctrXform => decide
  | _ => exact absurd hi (by decide)

theorem placed_of_running {i : Instr} {s : State} (hi : UsesDst i) (h : Running i s) : Placed i s := by
  obtain ⟨hoverlap, -, hunit⟩ := mem_checksOf_mode hi
  have hpass {c : Check} (hc : c ∈ checksOf i) : ¬ c.fails s = true := by
    simp [passes_of_firstFailure h.2 hc]
  constructor
  · exact fun hc => by simpa using hpass (hunit hc)
  · have hregions := mt (Check.fails_noOverlap s).2 (hpass hoverlap)
    omega

/-- The source of a mode command whose checks pass lies inside DBUF (R170). -/
theorem src_inside {i : Instr} {s : State} (hi : UsesDst i) (hr : rejection i s = none) :
    s.src.toNat + s.len.toNat ≤ s.config.dbufBytes := by
  obtain ⟨-, hrange, -⟩ := mem_checksOf_mode hi
  exact Nat.le_of_not_lt (of_decide_eq_false (passes_of_firstFailure hr hrange))

/-- `r` is DBUF and the chaining value after the first `n` blocks of a mode command, told by the source as it stood before. -/
structure Processed (i : Instr) (s : State) (n : Nat) (r : Memory × Block) : Prop where
  chain : r.2 = chainAt i s.rk s.iv s.dataBlock n
  inside : ∀ k, k < 16 * n → k < s.len.toNat →
    State.dbufByte { s with dbuf := r.1 } (s.dst.toNat + k) = (outAt i s.rk s.iv s.dataBlock (k / 16))[k % 16]
  outside : ∀ a, (a < s.dst.toNat ∨ s.dst.toNat + 16 * n ≤ a ∨ s.dst.toNat + s.len.toNat ≤ a) →
    State.dbufByte { s with dbuf := r.1 } a = s.dbufByte a

/-- Block `n` is still to be read as it stood before: in place the blocks written lie below it, else outside the source (R352). -/
theorem Processed.dataBlock_eq {i : Instr} {s : State} (hp : Placed i s) {n : Nat} {r : Memory × Block}
    (h : Processed i s n r) : State.dataBlock { s with dbuf := r.1 } n = s.dataBlock n := by
  refine readCut_congr (s := s) (m := s.blockBytes n) fun j hj => h.outside (s.src.toNat + 16 * n + j) ?_
  have hlen : j < s.len.toNat - 16 * n := Nat.lt_of_lt_of_le hj (Nat.min_le_right ..)
  have hapart := hp.apart
  omega

theorem processed_zero (i : Instr) (s : State) : Processed i s 0 (modeRun i s 0) := by
  rw [modeRun_zero]
  exact ⟨rfl, fun k hk => absurd hk (by omega), fun _ _ => rfl⟩

/-- DBUF after block `n`: its own bytes are the output's, every other byte is as the blocks before it left it. -/
theorem dbufByte_modeStep (i : Instr) (s : State) (n : Nat) (r : Memory × Block) (a : Nat) :
    State.dbufByte { s with dbuf := (modeStep i s n r).1 } a =
      if h : s.dst.toNat + 16 * n ≤ a ∧ a < s.dst.toNat + 16 * n + s.blockBytes n then
        (blockOut i s.rk r.2 (State.dataBlock { s with dbuf := r.1 } n))[a - (s.dst.toNat + 16 * n)]'(by
          have hbytes := blockBytes_le s n
          omega)
      else State.dbufByte { s with dbuf := r.1 } a := by
  have hlen (b : Block) : (b.toList.take (s.blockBytes n)).length = s.blockBytes n := by
    simp [blockBytes_le]
  refine (State.dbufByte_memWrite { s with dbuf := r.1 } _ _ a).trans ?_
  simp only [hlen, List.getElem_take, Vector.getElem_toList]

theorem Processed.step {i : Instr} {s : State} (hp : Placed i s) {n : Nat} {r : Memory × Block} (h : Processed i s n r) :
    Processed i s (n + 1) (modeStep i s n r) := by
  have hdata := h.dataBlock_eq hp
  have hout : blockOut i s.rk r.2 (State.dataBlock { s with dbuf := r.1 } n) = outAt i s.rk s.iv s.dataBlock n := by
    rw [hdata, h.chain, outAt]
  constructor
  · simp only [modeStep, chainAt, hdata, h.chain]
  · intro k hk hlen
    rw [dbufByte_modeStep]
    by_cases hnew : 16 * n ≤ k
    · have hbytes : s.blockBytes n = min 16 (s.len.toNat - 16 * n) := rfl
      have hdiv : k / 16 = n := by omega
      have hmod : s.dst.toNat + k - (s.dst.toNat + 16 * n) = k % 16 := by omega
      rw [dif_pos (by omega)]
      simp only [hout, hdiv, hmod]
    · rw [dif_neg (by omega)]
      exact h.inside k (by omega) hlen
  · intro a ha
    have hbytes : s.blockBytes n = min 16 (s.len.toNat - 16 * n) := rfl
    rw [dbufByte_modeStep, dif_neg (by omega)]
    exact h.outside a (by omega)

theorem processed_modeRun {i : Instr} {s : State} (hi : UsesDst i) (hp : Placed i s) {n : Nat}
    (hn : n ≤ (s.len.toNat + 15) / 16) : Processed i s n (modeRun i s n) := by
  induction n with
  | zero => exact processed_zero i s
  | succ n ih =>
    rw [modeRun_succ hi hp.whole (by omega)]
    exact (ih (by omega)).step hp

/-- `t` is `s` after the mode command `i`: every destination byte, IV, every other DBUF byte, and the rest of the state. -/
structure ModeResult (i : Instr) (s t : State) : Prop where
  frame : t = { s with
    dbuf := t.dbuf, iv := t.iv, progress := BitVec.ofNat 32 (blockCount i s), err := .eNone, done := true, phase := .idle }
  iv : t.iv = wordsOfBytes (chainAt i s.rk s.iv s.dataBlock ((s.len.toNat + 15) / 16))
  inside : ∀ k, k < s.len.toNat →
    t.dbufByte (s.dst.toNat + k) = (outAt i s.rk s.iv s.dataBlock (k / 16))[k % 16]
  outside : ∀ a, (a < s.dst.toNat ∨ s.dst.toNat + s.len.toNat ≤ a) → t.dbufByte a = s.dbufByte a

/-- DBUF and IV of a completed mode command are those of its run function. -/
theorem exec_mode_eq {i : Instr} {s : State} (hi : UsesDst i) (hw : WholeBlocks i s) (hphase : s.phase = .exec i) :
    exec i s = .next (complete (blockCount i s) { s with
      dbuf := (modeRun i s ((s.len.toNat + 15) / 16)).1
      iv := wordsOfBytes (modeRun i s ((s.len.toNat + 15) / 16)).2 }) := by
  rw [exec_running hphase, effectOf_mode hi, blockCount_eq hi hw]

/-- What the next command sees of a completed mode command (R360). -/
theorem exec_mode_run {i : Instr} {s : State} (hi : UsesDst i) (hw : WholeBlocks i s) (hphase : s.phase = .exec i) :
    ∃ t, exec i s = .next t ∧ t.dbuf = (modeRun i s ((s.len.toNat + 15) / 16)).1 ∧
      t.iv = wordsOfBytes (modeRun i s ((s.len.toNat + 15) / 16)).2 ∧ t.rk = s.rk ∧ t.dbufDraw = s.dbufDraw :=
  ⟨_, exec_mode_eq hi hw hphase, rfl, rfl, rfl, rfl⟩

theorem exec_mode {i : Instr} {s : State} (hi : UsesDst i) (hp : Placed i s) (hphase : s.phase = .exec i) :
    ∃ t, exec i s = .next t ∧ ModeResult i s t := by
  have hdone := processed_modeRun hi hp (Nat.le_refl _)
  refine ⟨_, exec_mode_eq hi hp.whole hphase, rfl, congrArg wordsOfBytes hdone.chain, fun k hk => ?_, fun a ha => ?_⟩
  · exact hdone.inside k (by omega) hk
  · exact hdone.outside a (by omega)

theorem exec_mode_of_running {i : Instr} {s : State} (hi : UsesDst i) (h : Running i s) :
    ∃ t, exec i s = .next t ∧ ModeResult i s t :=
  exec_mode hi (placed_of_running hi h) h.1

/-- A whole block of the destination. -/
theorem ModeResult.readBlock_dst {i : Instr} {s t : State} (h : ModeResult i s t) {n : Nat}
    (hn : 16 * n + 16 ≤ s.len.toNat) :
    t.readBlock (s.dst.toNat + 16 * n) = outAt i s.rk s.iv s.dataBlock n := by
  apply Vector.ext
  intro j hj
  have hbyte := h.inside (16 * n + j) (by omega)
  have hdiv : (16 * n + j) / 16 = n := by omega
  have hmod : (16 * n + j) % 16 = j := by omega
  simp only [hdiv, hmod] at hbyte
  rw [getElem_readBlock, Nat.add_assoc, hbyte]

end Sys2Proof.Machine
end

section
/-! PROOF. The statements about one mode command each (R353 to R358). -/

namespace Sys2Proof.Machine

theorem chainAt_cbcEnc (rk : RoundKeys) (iv : Vector Word 4) (p : Nat → Block) (n : Nat) :
    chainAt .cbcEnc rk iv p n = if n = 0 then bytesOfWords iv else outAt .cbcEnc rk iv p (n - 1) := by
  cases n <;> rfl

theorem chainAt_cbcDec (rk : RoundKeys) (iv : Vector Word 4) (p : Nat → Block) (n : Nat) :
    chainAt .cbcDec rk iv p n = if n = 0 then bytesOfWords iv else p (n - 1) := by
  cases n <;> rfl

theorem chainAt_ctrXform (rk : RoundKeys) (iv : Vector Word 4) (p : Nat → Block) (n : Nat) :
    chainAt .ctrXform rk iv p n = counterBlock (ivInt iv + BitVec.ofNat 128 n) := by
  induction n with
  | zero => simp [chainAt, counterBlock_ivInt]
  | succ n ih =>
    simp only [chainAt, nextChain, ih, ivInt_wordsOfBytes_counterBlock]
    rw [BitVec.add_assoc, BitVec.ofNat_add]
    rfl

theorem chainAt_ecb {i : Instr} (hi : i = .ecbEnc ∨ i = .ecbDec) (rk : RoundKeys) (iv : Vector Word 4) (p : Nat → Block)
    (n : Nat) : chainAt i rk iv p n = bytesOfWords iv := by
  induction n with
  | zero => rfl
  | succ n ih => rcases hi with rfl | rfl <;> exact ih

/-- Settles O31: ECB carries no chaining value, so each block is transformed on its own. -/
theorem ecbTransformsEachBlock : Obligations.EcbTransformsEachBlock := by
  intro s i f hif hr
  have hi : i = .ecbEnc ∨ i = .ecbDec := hif.imp And.left And.left
  have hmode : UsesDst i := by rcases hi with rfl | rfl <;> decide
  have hout (c p : Block) : blockOut i s.rk c p = f p := by
    rcases hif with ⟨rfl, rfl⟩ | ⟨rfl, rfl⟩ <;> rfl
  have hcount : blockCount i s = s.len.toNat / 16 := by rcases hi with rfl | rfl <;> rfl
  obtain ⟨t, ht, hres⟩ := exec_mode_of_running hmode hr
  have hiv : t.iv = s.iv := by rw [hres.iv, chainAt_ecb hi, wordsOfBytes_bytesOfWords]
  refine ⟨t, ht, ?_, fun n hn => ?_, hres.outside⟩
  · have hframe := hres.frame
    rwa [hiv, hcount] at hframe
  · rw [hres.readBlock_dst (by omega), outAt, hout, dataBlock_whole (by omega)]

/-- IV after a CBC command over whole blocks: the last ciphertext block, if there is one (R351). -/
theorem wordsOfBytes_last {s : State} (hw : s.len.toNat % 16 = 0) (c : Nat → Block) :
    wordsOfBytes (if (s.len.toNat + 15) / 16 = 0 then bytesOfWords s.iv else c ((s.len.toNat + 15) / 16 - 1)) =
      if s.len = 0#32 then s.iv else wordsOfBytes (c (s.len.toNat / 16 - 1)) := by
  have hblocks : (s.len.toNat + 15) / 16 = s.len.toNat / 16 := by omega
  have hzero : s.len = 0#32 ↔ s.len.toNat / 16 = 0 := by
    rw [← BitVec.toNat_inj, BitVec.toNat_ofNat]
    omega
  simp only [hblocks, hzero]
  split_ifs
  · exact wordsOfBytes_bytesOfWords s.iv
  · rfl

/-- Settles O32: the chaining value is the ciphertext block before. -/
theorem cbcEncChainsCiphertext : Obligations.CbcEncChainsCiphertext := by
  intro s hr
  have hw : s.len.toNat % 16 = 0 := (placed_of_running (by decide) hr).whole (by decide)
  obtain ⟨t, ht, hres⟩ := exec_mode_of_running (i := .cbcEnc) (by decide) hr
  have hchain (n : Nat) (hn : n ≤ (s.len.toNat + 15) / 16) : chainAt .cbcEnc s.rk s.iv s.dataBlock n =
      if n = 0 then bytesOfWords s.iv else t.readBlock (s.dst.toNat + 16 * (n - 1)) := by
    rw [chainAt_cbcEnc]
    split_ifs with h0
    · rfl
    · rw [hres.readBlock_dst (by omega)]
  refine ⟨t, ht, hres.frame, fun n hn => ?_, ?_, hres.outside⟩
  · rw [hres.readBlock_dst (by omega), outAt, dataBlock_whole (by omega), hchain n (by omega)]
    rfl
  · rw [hres.iv, hchain _ (Nat.le_refl _)]
    exact wordsOfBytes_last hw fun m => t.readBlock (s.dst.toNat + 16 * m)

/-- Settles O33: the chaining value is the source block before, as it stood before the command. -/
theorem cbcDecUnchainsCiphertext : Obligations.CbcDecUnchainsCiphertext := by
  intro s hr
  have hw : s.len.toNat % 16 = 0 := (placed_of_running (by decide) hr).whole (by decide)
  obtain ⟨t, ht, hres⟩ := exec_mode_of_running (i := .cbcDec) (by decide) hr
  have hchain (n : Nat) (hn : n ≤ (s.len.toNat + 15) / 16) : chainAt .cbcDec s.rk s.iv s.dataBlock n =
      if n = 0 then bytesOfWords s.iv else s.readBlock (s.src.toNat + 16 * (n - 1)) := by
    rw [chainAt_cbcDec]
    split_ifs with h0
    · rfl
    · rw [dataBlock_whole (by omega)]
  refine ⟨t, ht, hres.frame, fun n hn => ?_, ?_, hres.outside⟩
  · rw [hres.readBlock_dst (by omega), outAt, dataBlock_whole (by omega), hchain n (by omega)]
    rfl
  · rw [hres.iv, hchain _ (Nat.le_refl _)]
    exact wordsOfBytes_last hw fun m => s.readBlock (s.src.toNat + 16 * m)

/-- Byte `k` of the source lies in block `k / 16`. -/
theorem getElem_dataBlock {s : State} {k : Nat} (hk : k < s.len.toNat) :
    (s.dataBlock (k / 16))[k % 16] = s.dbufByte (s.src.toNat + k) := by
  have hbytes : s.blockBytes (k / 16) = min 16 (s.len.toNat - 16 * (k / 16)) := rfl
  rw [State.dataBlock, getElem_readCut _ _ _ _ (by omega), Nat.add_assoc, Nat.div_add_mod]

/-- A byte of CTR is the data byte XORed with the keystream's (R358). -/
theorem getElem_outAt_ctrXform (rk : RoundKeys) (iv : Vector Word 4) (p : Nat → Block) (n : Nat) {j : Nat} (hj : j < 16) :
    (outAt .ctrXform rk iv p n)[j] = (p n)[j] ^^^ (cipher rk (counterBlock (ivInt iv + BitVec.ofNat 128 n)))[j] := by
  rw [outAt, chainAt_ctrXform]
  exact getElem_xorBlock _ _ hj

/-- Settles O34: the chaining value is the counter. -/
theorem ctrXorsKeystream : Obligations.CtrXorsKeystream := by
  intro s hr
  obtain ⟨t, ht, hres⟩ := exec_mode_of_running (i := .ctrXform) (by decide) hr
  refine ⟨t, ht, hres.frame, fun k hk => ?_, ?_, hres.outside⟩
  · rw [hres.inside k hk, getElem_outAt_ctrXform, getElem_dataBlock hk]
  · rw [hres.iv, chainAt_ctrXform, ivInt_wordsOfBytes_counterBlock]

end Sys2Proof.Machine
end

section
/-! PROOF. Two runs that agree: in place and out of place (R359), and a mode command and its inverse (R363). -/

namespace Sys2Proof.Machine

/-- Settles O37: the output blocks and the last chaining value are functions of RK, IV and the data blocks. -/
theorem inPlaceEqualsOutOfPlace : Obligations.InPlaceEqualsOutOfPlace := by
  intro s s' i hi hr hr' _ _ hlen hrk hiv hdata
  have hmode : UsesDst i := by simpa [UsesDst, Chained, or_assoc] using hi
  obtain ⟨t, ht, hres⟩ := exec_mode_of_running hmode hr
  obtain ⟨t', ht', hres'⟩ := exec_mode_of_running hmode hr'
  have hblocks : s'.dataBlock = s.dataBlock := by
    funext n
    have hbytes : s'.blockBytes n = s.blockBytes n := by simp only [State.blockBytes, hlen]
    rw [State.dataBlock, State.dataBlock, hbytes]
    refine readCut_congr fun j hj => ?_
    have hj' : 16 * n + j < s.len.toNat := by
      simp only [State.blockBytes] at hj
      omega
    rw [Nat.add_assoc, Nat.add_assoc, memRead_eq_iff.1 hdata _ hj']
  refine ⟨t, t', ht, ht', ?_, memRead_eq_iff.2 fun k hk => ?_⟩
  · rw [hres.iv, hres'.iv, hblocks, hlen, hrk, hiv]
  · rw [hres.inside k hk, hres'.inside k (hlen ▸ hk)]
    simp only [hblocks, hrk, hiv]

/-- The commands over whole blocks that undo each other (R363). -/
abbrev UndoesBlocks (enc dec : Instr) : Prop := (enc, dec) ∈ [(Instr.ecbEnc, Instr.ecbDec), (.cbcEnc, .cbcDec)]

section Undo
variable {enc dec : Instr} (h : UndoesBlocks enc dec)
include h

theorem undoesBlocks_cases : (enc = .ecbEnc ∧ dec = .ecbDec) ∨ (enc = .cbcEnc ∧ dec = .cbcDec) := by
  simpa using h

theorem undoesBlocks_chained : Chained enc ∧ Chained dec := by
  rcases undoesBlocks_cases h with ⟨rfl, rfl⟩ | ⟨rfl, rfl⟩ <;> decide

/-- Under the same chaining value the inverse gives the data block back, and both go on with the same chaining value. -/
theorem blockOut_undo (rk : RoundKeys) (c p : Block) :
    blockOut dec rk c (blockOut enc rk c p) = p ∧ nextChain dec rk c (blockOut enc rk c p) = nextChain enc rk c p := by
  have hinv (b : Block) : invCipher rk (cipher rk b) = b := (cipherRoundTrip rk b).1
  rcases undoesBlocks_cases h with ⟨rfl, rfl⟩ | ⟨rfl, rfl⟩
  · exact ⟨hinv p, rfl⟩
  · exact ⟨by simp only [blockOut, hinv, xorBlock_xorBlock], rfl⟩

variable {rk : RoundKeys} {iv : Vector Word 4} {p q : Nat → Block} {n : Nat}

theorem chainAt_undo (hq : ∀ m, m < n → q m = outAt enc rk iv p m) : chainAt dec rk iv q n = chainAt enc rk iv p n := by
  induction n with
  | zero => rfl
  | succ n ih =>
    rw [chainAt, ih fun m hm => hq m (by omega), hq n (by omega)]
    exact (blockOut_undo h rk _ _).2

theorem outAt_undo (hq : ∀ m, m ≤ n → q m = outAt enc rk iv p m) : outAt dec rk iv q n = p n := by
  rw [outAt, chainAt_undo h fun m hm => hq m (by omega), hq n (Nat.le_refl n)]
  exact (blockOut_undo h rk _ _).1

end Undo

/-- `v` is set up to work in place on what a mode command wrote from `s` to `t`, with the IV of `s` (R363). -/
structure WorksOnResult (s t v : State) : Prop where
  bytes : ∀ a, v.dbufByte a = t.dbufByte a
  src : v.src = s.dst
  dst : v.dst = s.dst
  len : v.len = s.len
  rk : v.rk = s.rk
  iv : v.iv = s.iv

theorem ModeResult.worksOnResult {i : Instr} {s t : State} (h : ModeResult i s t) (ph : Phase) :
    WorksOnResult s t { t with src := s.dst, iv := s.iv, phase := ph } := by
  have hkept : t.dst = s.dst ∧ t.len = s.len ∧ t.rk = s.rk := by
    rw [h.frame]
    exact ⟨rfl, rfl, rfl⟩
  exact ⟨fun _ => rfl, rfl, hkept.1, hkept.2.1, hkept.2.2, rfl⟩

section WorksOnResult
variable {enc dec : Instr} {s t v : State} (hres : ModeResult enc s t) (hv : WorksOnResult s t v)
include hres hv

/-- The data of the second command is the output of the first. -/
theorem getElem_dataBlock_result {k : Nat} (hk : k < s.len.toNat) :
    (v.dataBlock (k / 16))[k % 16] = (outAt enc s.rk s.iv s.dataBlock (k / 16))[k % 16] := by
  rw [getElem_dataBlock (hv.len ▸ hk), hv.bytes, hv.src, hres.inside k hk]

theorem dataBlock_result {n : Nat} (hn : 16 * n + 16 ≤ s.len.toNat) : v.dataBlock n = outAt enc s.rk s.iv s.dataBlock n := by
  rw [dataBlock_whole (hv.len ▸ hn), hv.src, ← hres.readBlock_dst hn]
  simp only [State.readBlock, hv.bytes]

/-- The second command's output is the first one's data: block by block, or for CTR byte by byte, where the last block may be
short. -/
theorem getElem_outAt_result (hpair : UndoesBlocks enc dec ∨ (enc = .ctrXform ∧ dec = .ctrXform)) (hw : WholeBlocks enc s)
    {k : Nat} (hk : k < s.len.toNat) :
    (outAt dec s.rk s.iv v.dataBlock (k / 16))[k % 16] = (s.dataBlock (k / 16))[k % 16] := by
  rcases hpair with hblocks | ⟨rfl, rfl⟩
  · have hlen := hw (undoesBlocks_chained hblocks).1
    rw [outAt_undo hblocks fun m hm => dataBlock_result hres hv (by omega)]
  · rw [getElem_outAt_ctrXform, getElem_dataBlock_result hres hv hk, getElem_outAt_ctrXform, BitVec.xor_assoc,
      BitVec.xor_self, BitVec.xor_zero]

theorem dbufByte_roundTrip {u : State} (hres' : ModeResult dec v u)
    (hpair : UndoesBlocks enc dec ∨ (enc = .ctrXform ∧ dec = .ctrXform)) (hw : WholeBlocks enc s) {k : Nat}
    (hk : k < s.len.toNat) : u.dbufByte (s.dst.toNat + k) = s.dbufByte (s.src.toNat + k) := by
  have hbyte := hres'.inside k (hv.len ▸ hk)
  rw [hv.dst, hv.rk, hv.iv] at hbyte
  rw [hbyte, getElem_outAt_result hres hv hpair hw hk, getElem_dataBlock hk]

end WorksOnResult

/-- Settles O35: in place, the data of the inverse command is the output of the first. -/
theorem modesRoundTrip : Obligations.ModesRoundTrip := by
  intro s enc dec hpair hr
  have hcases : UndoesBlocks enc dec ∨ (enc = .ctrXform ∧ dec = .ctrXform) := by simpa [or_assoc] using hpair
  obtain ⟨henc, hdec, hchained⟩ : UsesDst enc ∧ UsesDst dec ∧ (Chained dec → Chained enc) := by
    rcases hcases with h | ⟨rfl, rfl⟩
    · obtain ⟨hc, hc'⟩ := undoesBlocks_chained h
      exact ⟨.inl hc, .inl hc', fun _ => hc⟩
    · decide
  have hw := (placed_of_running henc hr).whole
  obtain ⟨t, ht, hres⟩ := exec_mode_of_running henc hr
  have hv := hres.worksOnResult (.exec dec)
  have hplaced : Placed dec { t with src := s.dst, iv := s.iv, phase := .exec dec } :=
    ⟨fun hc => hv.len ▸ hw (hchained hc), .inl (congrArg BitVec.toNat (hv.src.trans hv.dst.symm))⟩
  obtain ⟨u, hu, hres'⟩ := exec_mode hdec hplaced rfl
  exact ⟨t, u, ht, hu, memRead_eq_iff.2 fun k hk => dbufByte_roundTrip hres hv hres' hcases hw hk⟩

end Sys2Proof.Machine
end

section
/-! PROOF. A mode command split in two at a multiple of 16 bytes (R360). -/

namespace Sys2Proof.Machine

/-- A step depends on its state by RK, by where its block lies, and by how long the block is. -/
theorem modeStep_congr (i : Instr) {s s' : State} {n n' : Nat} (hrk : s'.rk = s.rk) (hdraw : s'.dbufDraw = s.dbufDraw)
    (hsrc : s'.src.toNat + 16 * n' = s.src.toNat + 16 * n) (hdst : s'.dst.toNat + 16 * n' = s.dst.toNat + 16 * n)
    (hbytes : s'.blockBytes n' = s.blockBytes n) (r : Memory × Block) : modeStep i s' n' r = modeStep i s n r := by
  have hdata : State.dataBlock { s' with dbuf := r.1 } n' = State.dataBlock { s with dbuf := r.1 } n := by
    show State.readCut _ (s'.src.toNat + 16 * n') (s'.blockBytes n') = State.readCut _ (s.src.toNat + 16 * n) (s.blockBytes n)
    rw [hsrc, hbytes]
    refine readCut_congr fun j _ => ?_
    simp only [State.dbufByte, hdraw]
  simp only [modeStep]
  rw [hdata, hrk, hdst, hbytes]

/-- A run that starts where another is after `m` blocks, and whose steps are the other's from there on, goes where it goes. -/
theorem modeRun_continues {i : Instr} {s s' : State} (hi : UsesDst i) (hw : WholeBlocks i s) (hw' : WholeBlocks i s')
    {m : Nat} (hstart : modeRun i s' 0 = modeRun i s m)
    (hstep : ∀ k, 16 * k < s'.len.toNat → ∀ r, modeStep i s' k r = modeStep i s (m + k) r)
    (hlen : 16 * m + s'.len.toNat ≤ s.len.toNat) {n : Nat} (hn : n ≤ (s'.len.toNat + 15) / 16) :
    modeRun i s' n = modeRun i s (m + n) := by
  induction n with
  | zero => exact hstart
  | succ n ih =>
    rw [modeRun_succ hi hw' (by omega), ih (by omega), hstep n (by omega), ← Nat.add_assoc, modeRun_succ hi hw (by omega)]

/-- The first `l` bytes alone, whole blocks, are the beginning of the run. -/
theorem modeRun_firstBytes {i : Instr} {s : State} (hi : UsesDst i) (hw : WholeBlocks i s) {l : Nat} (hl : l % 16 = 0)
    (hle : l ≤ s.len.toNat) : modeRun i { s with len := BitVec.ofNat 32 l } (l / 16) = modeRun i s (l / 16) := by
  have hlen : (BitVec.ofNat 32 l).toNat = l := Nat.mod_eq_of_lt (by omega)
  have hrun := modeRun_continues (s := s) (s' := { s with len := BitVec.ofNat 32 l }) (m := 0) (n := l / 16) hi hw
    (fun _ => by simpa only [hlen] using hl) (by rw [modeRun_zero, modeRun_zero])
    (fun k hk => by
      refine modeStep_congr i rfl rfl (by simp) (by simp) ?_
      simp only [hlen] at hk
      simp only [State.blockBytes, hlen, Nat.zero_add]
      omega)
    (by simpa [hlen] using hle) (by simp only [hlen]; omega)
  simpa using hrun

/-- `v` is set up to go on with `i` after the first `l` bytes of `s` (R360). -/
structure ContinuesAt (i : Instr) (s : State) (l : Nat) (v : State) : Prop where
  start : (v.dbuf, bytesOfWords v.iv) = modeRun i s (l / 16)
  rk : v.rk = s.rk
  draw : v.dbufDraw = s.dbufDraw
  src : v.src.toNat = s.src.toNat + l
  dst : v.dst.toNat = s.dst.toNat + l
  len : l + v.len.toNat = s.len.toNat

theorem ContinuesAt.whole {i : Instr} {s v : State} {l : Nat} (hv : ContinuesAt i s l v) (hw : WholeBlocks i s)
    (hl : l % 16 = 0) : WholeBlocks i v := fun hc => by
  have hlen := hw hc
  have hrest := hv.len
  omega

section Continues
variable {i : Instr} {s v : State} {l : Nat} (hi : UsesDst i) (hw : WholeBlocks i s) (hl : l % 16 = 0)
  (hv : ContinuesAt i s l v)
include hi hw hl hv

theorem modeRun_rest : modeRun i v ((v.len.toNat + 15) / 16) = modeRun i s ((s.len.toNat + 15) / 16) := by
  have hlen := hv.len
  have hsrc := hv.src
  have hdst := hv.dst
  have hblocks : l / 16 + (v.len.toNat + 15) / 16 = (s.len.toNat + 15) / 16 := by omega
  rw [← hblocks]
  refine modeRun_continues hi hw (hv.whole hw hl) ((modeRun_zero i v).trans hv.start) (fun k _ => ?_) (by omega)
    (Nat.le_refl _)
  refine modeStep_congr i hv.rk hv.draw (by omega) (by omega) ?_
  have hrest : v.len.toNat - 16 * k = s.len.toNat - 16 * (l / 16 + k) := by omega
  simp only [State.blockBytes, hrest]

/-- The second command leaves DBUF and IV as one command over all the data does. -/
theorem exec_rest (hphase : v.phase = .exec i) {t : State} (ht : exec i s = .next t) (hs : s.phase = .exec i) :
    ∃ u, exec i v = .next u ∧ u.iv = t.iv ∧ ∀ a, u.dbufByte a = t.dbufByte a := by
  obtain ⟨t', ht', hdbuf, hiv, -, hdraw⟩ := exec_mode_run hi hw hs
  obtain ⟨u, hu, hdbuf', hiv', -, hdraw'⟩ := exec_mode_run hi (hv.whole hw hl) hphase
  obtain rfl : t' = t := Host.Outcome.next.inj (ht'.symm.trans ht)
  rw [modeRun_rest hi hw hl hv] at hdbuf' hiv'
  refine ⟨u, hu, hiv'.trans hiv.symm, fun a => ?_⟩
  simp only [State.dbufByte, hdbuf', hdbuf, hdraw', hdraw, hv.draw]

end Continues

/-- Settles O36: the first command is the beginning of the run over L1 + L2 bytes, and the second goes on where it ends. -/
theorem splitCommandContinues : Obligations.SplitCommandContinues := by
  intro s i l1 l2 hi hr hc hlen hl1
  obtain ⟨hmode, hwrites⟩ : UsesDst i ∧ writesDbuf i = true := by
    simp only [List.mem_cons, List.not_mem_nil, or_false] at hi
    rcases hi with rfl | rfl | rfl <;> decide
  have hw := (placed_of_running hmode hr).whole
  have hsize := Config.dbufBytes_le hc
  have hsrc := src_inside hmode hr.2
  have hdst := dst_inside hwrites hr.2
  have hnat1 : (BitVec.ofNat 32 l1).toNat = l1 := Nat.mod_eq_of_lt (by omega)
  have hnat2 : (BitVec.ofNat 32 l2).toNat = l2 := Nat.mod_eq_of_lt (by omega)
  have hadd {x : Word} (hx : x.toNat + s.len.toNat ≤ 65536) : (x + BitVec.ofNat 32 l1).toNat = x.toNat + l1 := by
    rw [BitVec.toNat_add, hnat1, Nat.mod_eq_of_lt (by omega)]
  obtain ⟨t, ht, -⟩ := exec_mode_run hmode hw hr.1
  obtain ⟨t1, ht1, hdbuf1, hiv1, hrk1, hdraw1⟩ := exec_mode_run (s := { s with len := BitVec.ofNat 32 l1 }) hmode
    (fun _ => by simpa only [hnat1] using hl1) hr.1
  have hblocks1 : (l1 + 15) / 16 = l1 / 16 := by omega
  simp only [hnat1, hblocks1, modeRun_firstBytes hmode hw hl1 (Nat.le.intro hlen.symm)] at hdbuf1 hiv1
  have hcont : ContinuesAt i s l1 { t1 with
      src := s.src + BitVec.ofNat 32 l1, dst := s.dst + BitVec.ofNat 32 l1, len := BitVec.ofNat 32 l2, phase := .exec i } :=
    { start := by simp only [hdbuf1, hiv1, bytesOfWords_wordsOfBytes]
      rk := hrk1
      draw := hdraw1
      src := hadd (by omega)
      dst := hadd (by omega)
      len := by simp only [hnat2, hlen] }
  obtain ⟨t2, ht2, hiv, hbytes⟩ := exec_rest hmode hw hl1 hcont rfl ht hr.1
  exact ⟨t, t1, t2, ht, ht1, ht2, hiv, hbytes⟩

end Sys2Proof.Machine
end

section
/-! PROOF. The SHA-256 padding: its shape and its length (R405). -/

namespace Sys2Proof.Machine

/-- R405's `z`, computed in the integers, where 55 - L may be negative. -/
theorem padZeros_eq (len : Nat) : padZeros len = ((55 - len : Int) % 64).toNat := by
  unfold padZeros
  omega

theorem be64_eq (x : Nat) : be64 x = (List.range 8).map fun k => BitVec.ofNat 8 (x / 256 ^ (7 - k)) := by
  simp only [be64, pow_mul]
  rfl

@[simp] theorem be64_length (x : Nat) : (be64 x).length = 8 := by simp [be64]

theorem pad_length (m : List Byte) : (pad m).length = 64 * paddedBlocks m.length := by
  simp only [pad, padZeros, paddedBlocks, List.length_append, List.length_cons, List.length_replicate, be64_length]
  omega

/-- Settles O38: the parts of `pad` are R405's, and its zero bytes fill the last block. -/
theorem paddingFillsBlocks : Obligations.PaddingFillsBlocks := by
  refine fun m => ⟨?_, pad_length m⟩
  rw [pad, padZeros_eq, be64_eq]
  simp

end Sys2Proof.Machine
end

section
/-! PROOF. The SHA-256 functions (R400 to R402), the message schedule (R406, R407), the rounds of a compression (R408), the
iteration over blocks (R409) and the constants (R403, R404). -/

namespace Sys2Proof.Machine

theorem rotr_eq_rotateRight (x : Word) {n : Nat} (hn : n < 32) : rotr x n = x.rotateRight n := by
  rw [BitVec.rotateRight_def, Nat.mod_eq_of_lt hn, rotr]

theorem shaSchedule_length (b : List Byte) (n : Nat) : (shaSchedule b n).length = n + 16 := by
  induction n with
  | zero => simp [shaSchedule, messageWords]
  | succ n ih => rw [shaSchedule, List.length_append, ih, List.length_singleton, Nat.add_right_comm]

/-- Later words leave the words of the schedule so far. -/
theorem shaSchedule_prefix (b : List Byte) {n m : Nat} (hm : n ≤ m) : shaSchedule b n <+: shaSchedule b m := by
  induction m, hm using Nat.le_induction with
  | base => exact List.prefix_refl _
  | succ m _ ih => exact ih.trans (List.prefix_append _ _)

theorem shaSchedule_getElem?_of_le (b : List Byte) {n m t : Nat} (hm : n ≤ m) (ht : t < n + 16) :
    (shaSchedule b m)[t]? = (shaSchedule b n)[t]? := by
  have hlen : t < (shaSchedule b n).length := by rwa [shaSchedule_length]
  rw [List.prefix_iff_getElem?.1 (shaSchedule_prefix b hm) t hlen, List.getElem?_eq_getElem hlen]

theorem shaSchedule_getD_of_le (b : List Byte) {n m t : Nat} (hm : n ≤ m) (ht : t < n + 16) :
    (shaSchedule b m).getD t 0#32 = (shaSchedule b n).getD t 0#32 := by
  simp only [List.getD_eq_getElem?_getD, shaSchedule_getElem?_of_le b hm ht]

theorem shaSchedule_getElem?_of_lt_sixteen (b : List Byte) (n : Nat) {t : Nat} (ht : t < 16) :
    (shaSchedule b n)[t]? = some
      (wordOf (b.getD (4 * t) 0#8) (b.getD (4 * t + 1) 0#8) (b.getD (4 * t + 2) 0#8) (b.getD (4 * t + 3) 0#8)) := by
  rw [shaSchedule_getElem?_of_le b (Nat.zero_le n) (by omega), shaSchedule, messageWords, List.getElem?_map,
    List.getElem?_range ht, Option.map_some]

/-- The word that each step of the schedule appends (R407). -/
theorem shaSchedule_succ_getD_last (b : List Byte) (n : Nat) :
    (shaSchedule b (n + 1)).getD (n + 16) 0#32 =
      smallSigma1 ((shaSchedule b n).getD (n + 14) 0#32) + (shaSchedule b n).getD (n + 9) 0#32 +
        smallSigma0 ((shaSchedule b n).getD (n + 1) 0#32) + (shaSchedule b n).getD n 0#32 := by
  rw [shaSchedule, List.getD_append_right _ _ _ _ (by rw [shaSchedule_length]), shaSchedule_length, Nat.sub_self,
    List.getD_cons_zero]

/-- R407's recurrence inside a schedule that is long enough. -/
theorem shaSchedule_getD_add_sixteen (b : List Byte) {n m : Nat} (hn : n < m) :
    (shaSchedule b m).getD (n + 16) 0#32 =
      smallSigma1 ((shaSchedule b m).getD (n + 14) 0#32) + (shaSchedule b m).getD (n + 9) 0#32 +
        smallSigma0 ((shaSchedule b m).getD (n + 1) 0#32) + (shaSchedule b m).getD n 0#32 := by
  have hkeep {t : Nat} (ht : t < n + 16) := shaSchedule_getD_of_le b hn.le ht
  rw [shaSchedule_getD_of_le b (n := n + 1) hn (by omega), shaSchedule_succ_getD_last, hkeep (by omega),
    hkeep (t := n + 9) (by omega), hkeep (t := n + 1) (by omega), hkeep (t := n) (by omega)]

@[simp] theorem shaK_length : shaK.length = 64 := by simp [shaK]

/-- The working variables a to h as a vector, in the order of H[0..7] (R408). -/
def Working.toHash (v : Working) : HashState := #v[v.a, v.b, v.c, v.d, v.e, v.f, v.g, v.h]

/-- The working variables a compression starts with (R408). -/
def Working.ofHash (h : HashState) : Working := ⟨h[0], h[1], h[2], h[3], h[4], h[5], h[6], h[7]⟩

theorem Working.toHash_ofHash (h : HashState) : (Working.ofHash h).toHash = h := by
  ext i hi
  interval_cases i <;> rfl

/-- The working variables before round `t` of a compression. -/
def workingBefore (h : HashState) (b : List Byte) (t : Nat) : Working :=
  ((List.zip shaK (shaSchedule b 48)).take t).foldl shaRound (Working.ofHash h)

theorem zip_shaK_shaSchedule_length (b : List Byte) : (List.zip shaK (shaSchedule b 48)).length = 64 := by
  rw [List.length_zip, shaK_length, shaSchedule_length, Nat.min_self]

theorem workingBefore_zero (h : HashState) (b : List Byte) : (workingBefore h b 0).toHash = h := by
  rw [workingBefore, List.take_zero, List.foldl_nil, Working.toHash_ofHash]

theorem workingBefore_succ (h : HashState) (b : List Byte) {t : Nat} (ht : t < 64) :
    workingBefore h b (t + 1) = shaRound (workingBefore h b t) (shaK.getD t 0#32, (shaSchedule b 48).getD t 0#32) := by
  have hk : t < shaK.length := ht.trans_eq shaK_length.symm
  have hw : t < (shaSchedule b 48).length := ht.trans_eq (shaSchedule_length b 48).symm
  have hzip : t < (List.zip shaK (shaSchedule b 48)).length :=
    ht.trans_eq (zip_shaK_shaSchedule_length b).symm
  rw [workingBefore, List.take_succ_eq_append_getElem hzip, List.foldl_concat, List.getElem_zip, ← workingBefore,
    List.getD_eq_getElem _ _ hk, List.getD_eq_getElem _ _ hw]

theorem shaRounds_eq_workingBefore (h : HashState) (b : List Byte) : shaRounds h b = workingBefore h b 64 := by
  rw [workingBefore, List.take_of_length_le (zip_shaK_shaSchedule_length b).le, shaRounds, Working.ofHash]

/-- One round, read off a vector of working variables as R408 writes it. -/
theorem Working.toHash_shaRound (v : Working) (k w : Word) : (shaRound v (k, w)).toHash =
    let t1 := v.toHash[7] + bigSigma1 v.toHash[4] + shaCh v.toHash[4] v.toHash[5] v.toHash[6] + k + w
    let t2 := bigSigma0 v.toHash[0] + shaMaj v.toHash[0] v.toHash[1] v.toHash[2]
    #v[t1 + t2, v.toHash[0], v.toHash[1], v.toHash[2], v.toHash[3] + t1, v.toHash[4], v.toHash[5], v.toHash[6]] :=
  rfl

/-- The final addition (R408). -/
theorem getElem_shaCompress (h : HashState) (b : List Byte) (i : Fin 8) :
    (shaCompress h b)[i] = h[i] + (shaRounds h b).toHash[i] := by
  fin_cases i <;> simp [shaCompress, Working.toHash]

theorem shaBlocks_eq_foldl (block : Nat → List Byte) (n : Nat) :
    shaBlocks block n = ((List.range n).map block).foldl shaCompress shaH0 := by
  induction n with
  | zero => rfl
  | succ n ih => rw [shaBlocks, ih, List.range_succ, List.map_append, List.map_singleton, List.foldl_concat]

/-- The search by trial division of the statement, run once. -/
theorem firstPrimes_eq : firstPrimes =
    [2, 3, 5, 7, 11, 13, 17, 19, 23, 29, 31, 37, 41, 43, 47, 53, 59, 61, 67, 71, 73, 79, 83, 89, 97, 101, 103, 107, 109, 113,
      127, 131, 137, 139, 149, 151, 157, 163, 167, 173, 179, 181, 191, 193, 197, 199, 211, 223, 227, 229, 233, 239, 241, 251,
      257, 263, 269, 271, 277, 281, 283, 293, 307, 311] := by
  decide +kernel

/-- Settles O39: the functions and the constants as they stand, the schedule by its steps, and a compression by the working
variables before each round. -/
theorem messageScheduleRecurrence : Obligations.MessageScheduleRecurrence := by
  refine ⟨fun x y z => ⟨rfl, rfl, ?_, ?_, ?_, ?_⟩, fun b => ⟨shaSchedule_length b 48, fun t ht => ?_, fun t ht ht' => ?_⟩,
    fun h b => ⟨fun t => (workingBefore h b t).toHash, workingBefore_zero h b, fun t ht => ?_, fun i => ?_⟩,
    ⟨shaK_length, by decide +kernel⟩, ?_, rfl, ?_, shaBlocks_eq_foldl, fun m => shaBlocks_eq_foldl _ _⟩
  · simp [bigSigma0, rotr_eq_rotateRight]
  · simp [bigSigma1, rotr_eq_rotateRight]
  · simp [smallSigma0, rotr_eq_rotateRight, shr]
  · simp [smallSigma1, rotr_eq_rotateRight, shr]
  · exact shaSchedule_getElem?_of_lt_sixteen b 48 ht
  · obtain ⟨n, rfl⟩ := Nat.exists_eq_add_of_le' ht
    exact shaSchedule_getD_add_sixteen b (by omega)
  · exact (congrArg Working.toHash (workingBefore_succ h b ht)).trans (Working.toHash_shaRound _ _ _)
  · rw [getElem_shaCompress, shaRounds_eq_workingBefore]
  · rw [firstPrimes_eq]
    decide +kernel
  · rw [firstPrimes_eq]
    decide +kernel

end Sys2Proof.Machine
end

section
/-! PROOF. The SHA commands (R411, R412): what they write, and SHA256_PADDED over a padded message. -/

namespace Sys2Proof.Machine

/-- Settles O40: each SHA command's effect is to write DIGEST. -/
theorem shaCommandsWriteDigest : Obligations.ShaCommandsWriteDigest :=
  fun _ => ⟨fun hp => exec_running hp, fun hp => exec_running hp⟩

/-- A hash depends on no block after those it compresses. -/
theorem shaBlocks_congr {block block' : Nat → List Byte} {n : Nat} (h : ∀ i < n, block i = block' i) :
    shaBlocks block n = shaBlocks block' n := by
  rw [shaBlocks_eq_foldl, shaBlocks_eq_foldl, List.map_congr_left fun i hi => h i (List.mem_range.1 hi)]

/-- Reading a block of a region is cutting it from the whole. -/
theorem blockOf_memRead (s : State) (a : Nat) {n i : Nat} (h : 64 * i + 64 ≤ n) :
    blockOf (s.memRead a n) i = s.memRead (a + 64 * i) 64 := by
  apply List.ext_getElem
  · simp only [blockOf, List.length_take, List.length_drop, memRead_length]
    omega
  · intro k _ _
    simp only [blockOf, List.getElem_take, List.getElem_drop, getElem_memRead, Nat.add_assoc]

/-- The blocks SHA256_PADDED compresses, cut from its data; bytes past the last whole block are left out. -/
theorem digest_sha256PaddedEffect (s : State) : (sha256PaddedEffect s).digest =
    shaBlocks (blockOf (s.memRead s.src.toNat s.len.toNat)) (s.len.toNat / 64) :=
  shaBlocks_congr (n := s.len.toNat / 64) fun _ hi => (blockOf_memRead s _ (by omega)).symm

/-- Settles O41: when its data is a padded message, SHA256_PADDED compresses the blocks of `SHA256` of the message. -/
theorem paddedHashEqualsRawHash : Obligations.PaddedHashEqualsRawHash := by
  intro s s' hp hp' hdata
  refine ⟨_, _, exec_running hp, exec_running hp', (digest_sha256PaddedEffect s').trans ?_⟩
  have hlen : s'.len.toNat = (pad (s.memRead s.src.toNat s.len.toNat)).length := by rw [← hdata, memRead_length]
  rw [hdata, hlen]
  rfl

end Sys2Proof.Machine
end

section
/-! PROOF. Every step answers a next state (R503, R508), and an idle core waits for a Host transaction or a reset (R516). -/

namespace Sys2Proof.Machine

theorem turn_next (e : Event) (s : State) : ∃ t, turn e s = .next t := by
  obtain ⟨_, _, _, h, -⟩ := turn_change e s
  exact ⟨_, h⟩

/-- Settles O7: a step is a turn, and no turn stops. -/
theorem everyStepAnswersNext : Obligations.EveryStepAnswersNext := by
  intro s
  cases hin : s.inputs with
  | nil => exact step_of_no_inputs hin ▸ turn_next _ _
  | cons e rest => exact step_of_inputs hin ▸ turn_next _ _

theorem sequencer_of_idle {s : State} (hp : s.phase = .idle) (a : SeqStep) : sequencer a s = .next s := by
  simp only [sequencer, hp]

theorem defaultEvent_of_idle {s : State} (hp : s.phase = .idle) : defaultEvent s = .hostLine :=
  if_neg (Bool.eq_false_iff.1 ((not_busy_iff s).2 hp))

/-- A line of Host-side control moves the Host alone (R157). -/
theorem hostLine_of_no_transaction {s : State} (ht : s.host.transaction s.host.current = none) :
    hostLine s = .next { s with host := s.host.after s.host.current s.response } := by
  simp only [hostLine, ht, hostAfter]

theorem step_default_of_idle {s : State} (hp : s.phase = .idle) (hin : s.inputs = []) : step s = hostLine s := by
  rw [step_of_no_inputs hin, defaultEvent_of_idle hp]
  rfl

/-- Settles O8: an idle Sequencer does nothing, a line without a transaction moves the Host alone, and HALT not even the Host. -/
theorem idleCoreIsUnchanged : Obligations.IdleCoreIsUnchanged := by
  intro s hp
  refine ⟨fun a rest hin => ?_, fun ht => ⟨fun rest hin => ?_, fun hin => ?_⟩, fun hin hhalt => ?_⟩
  · exact (step_of_inputs hin).trans (sequencer_of_idle (s := { s with inputs := rest }) hp a)
  · exact (step_of_inputs hin).trans (hostLine_of_no_transaction ht)
  · exact (step_default_of_idle hp hin).trans (hostLine_of_no_transaction ht)
  · have ht : s.host.transaction s.host.current = none := by rw [hhalt]; rfl
    rw [step_default_of_idle hp hin, hostLine_of_no_transaction ht, hhalt]
    rfl

end Sys2Proof.Machine
end

section
/-! PROOF. The layout of STATUS (R36) and its interrupt bit (R505). -/

namespace Sys2Proof.Machine

theorem getLsbD_bitAt (b : Bool) (n : Nat) {i : Nat} (hi : i < 32) : (bitAt b n).getLsbD i = (b && decide (i = n)) := by
  cases b with
  | false => simp [bitAt]
  | true =>
    have hshift : (n ≤ i ∧ i - n = 0) ↔ i = n := by omega
    simp [bitAt, hi, ← hshift, ← decide_not, Bool.decide_and]

/-- Bit by bit: one flag in each bit below 7, ERR from bit 8 up (R36). -/
theorem getLsbD_statusWord (s : State) {i : Nat} (hi : i < 32) : (statusWord s).getLsbD i =
    (s.busy && decide (i = 0) || s.done && decide (i = 1) || s.tblValid && decide (i = 2) || s.ksValid && decide (i = 3) ||
      s.cmdOverrun && decide (i = 4) || s.wrIgnored && decide (i = 5) || s.irq && decide (i = 6) ||
      decide (8 ≤ i) && s.err.code.getLsbD (i - 8)) := by
  have herr : (s.err.code.setWidth 32 <<< 8).getLsbD i = (decide (8 ≤ i) && s.err.code.getLsbD (i - 8)) := by
    simp [hi, ← decide_not]
  simp only [statusWord, BitVec.getLsbD_or, getLsbD_bitAt _ _ hi, herr]

/-- No flag reaches the bits from 8 up. -/
theorem getLsbD_statusWord_high (s : State) (i : Nat) (hi : i < 24) :
    (statusWord s).getLsbD (8 + i) = s.err.code.getLsbD i := by
  have hflag : ∀ n < 7, 8 + i ≠ n := fun n hn => by omega
  simp [getLsbD_statusWord s (show 8 + i < 32 by omega), hflag]

/-- ERR stands in bits 11:8 (R36). -/
theorem statusWord_err (s : State) : (statusWord s).extractLsb' 8 4 = s.err.code := by
  apply BitVec.eq_of_getLsbD_eq
  intro i hi
  rw [BitVec.getLsbD_extractLsb', getLsbD_statusWord_high s i (by omega), decide_eq_true hi, Bool.true_and]

/-- Bits 31:12 are reserved: ERR is 4 bits wide (R36). -/
theorem statusWord_reserved (s : State) : (statusWord s).extractLsb' 12 20 = 0#20 := by
  apply BitVec.eq_of_getLsbD_eq
  intro i hi
  have hbit : (statusWord s).getLsbD (12 + i) = false := by
    rw [show 12 + i = 8 + (4 + i) by omega, getLsbD_statusWord_high s (4 + i) (by omega)]
    exact BitVec.getLsbD_of_ge _ _ (by omega)
  simp [hbit]

/-- Settles O52: the bits below 8 are the formula of `getLsbD_statusWord` at each of them. -/
theorem statusWordLayout : Obligations.StatusWordLayout := by
  intro s
  refine ⟨?_, ?_, ?_, ?_, ?_, ?_, ?_, ?_, statusWord_err s, statusWord_reserved s, busy_iff s⟩
  all_goals
    rw [getLsbD_statusWord s (by decide)]
    simp [State.irq]

end Sys2Proof.Machine
end

section
/-! PROOF. The hardware reset as a turn (R600, R605), and the end of the table generation every reset starts (R602). -/

namespace Sys2Proof.Machine

/-- Settles O57: the turn answers `hardReset`, which is `AtReset`. -/
theorem hardResetResetsRegisters : Obligations.HardResetResetsRegisters :=
  fun s rest hin => ⟨hardReset { s with inputs := rest }, step_of_inputs hin, hardReset_atReset { s with inputs := rest }⟩

theorem sequencer_finish_of_gen {s : State} (hp : s.phase = .gen) : sequencer .finish s = .next (finishGeneration s) := by
  simp only [sequencer, hp]

/-- Settles O58: the finishing turn of phase GEN is `finishGeneration`, which fills the tables and leaves the core idle. -/
theorem resetGenerationEnds : Obligations.ResetGenerationEnds := by
  intro s rest hp hin
  have hstep : step s = .next (finishGeneration { s with inputs := rest }) :=
    (step_of_inputs hin).trans (sequencer_finish_of_gen hp)
  exact ⟨_, hstep, (not_busy_iff _).2 rfl, rfl⟩

end Sys2Proof.Machine
end
